-- ==== Sys2Proof/Word.lean ====
section
/-! DEFINITION. The two word types of the BFE: a 32-bit host-visible register and a 64-bit word of the bit array. -/

namespace Sys2Proof

/-- A host-visible register, or a command word (10_state.md R20, 30_encoding.md R63). -/
abbrev Word := BitVec 32

/-- A word of the bit array, or a hash (10_state.md R35, R42). -/
abbrev Word64 := BitVec 64

end Sys2Proof
end

