-- ==== Sys2Proof/Config.lean ====
section
/-! DEFINITION. What an implementation or its platform fixes (00_scope.md section 3), and the values the spec leaves free
(93_implementation_defined.md). -/

namespace Sys2Proof

/-- The OPEN parameters of 00_scope.md section 3. They ride in `State.cfg`, which no step changes, so that a statement about
every state is a statement about every choice of them. -/
structure Params where
  /-- CAP_WORDS (R8): the number of 64-bit words of storage. -/
  capWords : Word
  /-- K_LANES (R9): how many probes the engine handles in one beat. -/
  kLanes   : Nat
  /-- BFE_BASE (R10): the bus address of register offset 0x00. -/
  base     : Nat
  deriving DecidableEq, Repr

/-- CAP_BITS = 64 * CAP_WORDS (R8). -/
def Params.capBits (c : Params) : Nat := 64 * c.capWords.toNat

namespace Config

/-- DESIGN CHOICE (log 5, unsafe): the parameters of the one machine `State.reset` starts. -/
def params : Params := { capWords := 4096#32, kLanes := 4, base := 0 }

/-- Free value (log 2): what word `w` of the bit array holds after reset number `gen`, and until a CONFIG zeroes it
(70_reset_and_hazards.md R123, 93_implementation_defined.md I1 to I3: any value). -/
opaque unspecifiedWord (gen w : Nat) : Word64

/-- Free value (log 4): how many host inputs take effect between the acceptance and the completion of the command that draws
number `draw` (93_implementation_defined.md I5: scheduled freely; a natural number, so that it completes, R130). -/
opaque freeLatency (draw : Nat) : Nat

end Config
end Sys2Proof
end

