-- ==== Sys2Proof/Syntax.lean ====
section
/-! DEFINITION. The command set: one constructor per row of spec/opcode_table.json. -/

namespace Sys2Proof

/-- The four commands (30_encoding.md R64). The only field a command word has besides its OP is IE, and only INSERT and QUERY
may set it (R65, R67). All other operands are registers sampled into the latch (R69). -/
inductive Instr where
  /-- CONFIG, 40_configure.md R72. -/
  | config
  /-- INSERT with its input-error bit, 42_membership.md R92. -/
  | insert (ie : Bool)
  /-- QUERY with its input-error bit, 42_membership.md R93. -/
  | query (ie : Bool)
  /-- READW, 43_readback.md R103. -/
  | readw
  deriving DecidableEq, Repr

end Sys2Proof
end

