-- ==== Sys2Proof/WellFormed.lean ====
section
/-! DEFINITION. Well-formedness: of commands (nothing to check) and of the hardware's parameters. -/

namespace Sys2Proof

/-- Every term of `Instr` is an instruction of the hardware: the only operand a word carries is IE, one bit, and both its values
are legal where the constructor has it (30_encoding.md R67, R69). -/
def Instr.wellFormed : Instr → Bool
  | .config => true
  | .insert _ => true
  | .query _ => true
  | .readw => true

/-- 00_scope.md R8: 1 <= CAP_WORDS (the upper bound 2^32 - 1 is in the type). -/
def Params.capWordsOk (c : Params) : Bool := 1 ≤ c.capWords.toNat

/-- 00_scope.md R9: K_LANES >= 1. -/
def Params.kLanesOk (c : Params) : Bool := 1 ≤ c.kLanes

/-- 00_scope.md R10: BFE_BASE is a multiple of 64. -/
def Params.baseOk (c : Params) : Bool := c.base % 64 == 0

/-- The parameters a BFE can have (00_scope.md R8 to R10). -/
def Params.wellFormed (c : Params) : Bool := c.capWordsOk && c.kLanesOk && c.baseOk

end Sys2Proof
end

