-- ==== Sys2Proof/Decode.lean ====
section
/-! DEFINITION. Decoding and encoding of command words (30_encoding.md R63 to R68). A command is one 32-bit word written whole to
CMD; no byte order is visible (20_memory.md R50), so the decoder reads a word, not bytes. -/

namespace Sys2Proof

/-- Why a word is ILLEGAL (30_encoding.md R67). All three complete with the same code, IllegalCommand. -/
inductive Illegal where
  /-- A bit of RSV0 or RSV1 is set (R66). -/
  | reservedBitSet
  /-- OP is 0x0 or 0x5 to 0xF (R64). -/
  | unknownOp
  /-- CONFIG or READW with IE = 1 (R67). -/
  | inputErrorNotAllowed
  deriving DecidableEq, Repr

/-- What a command word decodes to: every one of the 2^32 words is a command or ILLEGAL (30_encoding.md R67). -/
inductive Decoded where
  | command (i : Instr)
  | illegal (why : Illegal)
  deriving DecidableEq, Repr

/-- CMD[3:0], OP (30_encoding.md R63). -/
def fieldOp (raw : Word) : BitVec 4 := raw.extractLsb' 0 4

/-- CMD[7:4], RSV0. -/
def fieldRsv0 (raw : Word) : BitVec 4 := raw.extractLsb' 4 4

/-- CMD[8], IE. -/
def fieldIe (raw : Word) : Bool := raw.getLsbD 8

/-- CMD[31:9], RSV1. -/
def fieldRsv1 (raw : Word) : BitVec 23 := raw.extractLsb' 9 23

/-- A command that may not carry IE = 1. -/
def withoutInputError (ie : Bool) (i : Instr) : Decoded :=
  if ie then .illegal .inputErrorNotAllowed else .command i

/-- Decode by OP once the reserved fields are known to be 0 (30_encoding.md R64, R67). -/
def decodeOp (op : BitVec 4) (ie : Bool) : Decoded :=
  if op = 0x1#4 then withoutInputError ie .config
  else if op = 0x2#4 then .command (.insert ie)
  else if op = 0x3#4 then .command (.query ie)
  else if op = 0x4#4 then withoutInputError ie .readw
  else .illegal .unknownOp

/-- `Decode(raw)` of 30_encoding.md R67. -/
def decode (raw : Word) : Decoded :=
  if fieldRsv0 raw ≠ 0#4 ∨ fieldRsv1 raw ≠ 0#23 then .illegal .reservedBitSet
  else decodeOp (fieldOp raw) (fieldIe raw)

/-- The instruction read from a word numbered as spec/opcode_table.json numbers it; the bits above `nbits` are 0, and every
command is one 32-bit word (30_encoding.md R63). -/
def decodeTableWord (nbits w : Nat) : Option Instr :=
  if 2 ^ 32 ≤ w % 2 ^ nbits then none
  else
    match decode (BitVec.ofNat 32 (w % 2 ^ nbits)) with
    | .command i => some i
    | .illegal _ => none

/-- The OP value of a command (30_encoding.md R64). -/
def opOf : Instr → BitVec 4
  | .config => 0x1#4
  | .insert _ => 0x2#4
  | .query _ => 0x3#4
  | .readw => 0x4#4

/-- The IE bit of a command (30_encoding.md R65). -/
def ieOf : Instr → Bool
  | .config => false
  | .insert ie => ie
  | .query ie => ie
  | .readw => false

/-- The word of a command: RSV1, IE, RSV0, OP from the top (30_encoding.md R63). -/
def encode (i : Instr) : Word := 0#23 ++ BitVec.ofBool (ieOf i) ++ 0#4 ++ opOf i

end Sys2Proof
end

