-- ==== Sys2Proof/Machine/State.lean ====
section
/-! DEFINITION. The state of the BFE and its two agents (10_state.md), the reasons a step can stop, and the state after reset. -/

namespace Sys2Proof.Machine

/-- STATUS.ERR (60_exceptions.md R107). Codes 6 to 15 are never written, so no constructor stands for them (log 17). -/
inductive ErrCode where
  | ok
  | invalidConfiguration
  | invalidInput
  | notConfigured
  | illegalCommand
  | indexRange
  deriving DecidableEq, Repr

/-- The fields of STATUS (10_state.md R24). -/
structure Status where
  busy       : Bool
  configured : Bool
  result     : Bool
  overrun    : Bool
  err        : ErrCode
  lastop     : BitVec 4
  deriving DecidableEq, Repr

/-- The command latch L (10_state.md R44); L.op and L.ie are views of `raw`. -/
structure Latch where
  raw  : Word
  maxi : Word
  bpi  : Word
  h    : Word64
  widx : Word
  deriving DecidableEq, Repr

/-- The bit array A (10_state.md R42): the words that have been written since the last reset, by rising word index. Its unit is
the 64-bit word, as the spec addresses it (log 1). An unlisted word holds `Config.unspecifiedWord gen w` (log 2). -/
structure BitArray where
  /-- MODEL's own: which reset the unlisted contents stem from (log 2). -/
  gen   : Nat
  cells : List (Nat × Word64)
  deriving DecidableEq, Repr

/-- The width of a bus access (20_memory.md R48). -/
inductive Width where
  | w8
  | w16
  | w32
  | w64
  deriving DecidableEq, Repr

/-- What the outside world does to the BFE, one access at a time (10_state.md R17, 30_encoding.md R70, R71). -/
inductive Input where
  /-- A bus write of the low bits of `v`. -/
  | write (addr : Nat) (width : Width) (v : Word64)
  /-- A bus read. -/
  | read (addr : Nat) (width : Width)
  /-- The POLL loop: read STATUS until BUSY = 0. -/
  | poll
  /-- The reset of 70_reset_and_hazards.md R122 and R124. -/
  | reset
  deriving DecidableEq, Repr

/-- The BFE, the parameters of this BFE, and its host. -/
structure State where
  /-- The hard-wired parameters (00_scope.md R8 to R10; CAPACITY reads `cfg.capWords`). -/
  cfg         : Params
  /-- STATUS (R24). -/
  status      : Status
  /-- MAX_ITEMS (R33). -/
  maxItems    : Word
  /-- BITS_PER_ITEM (R34). -/
  bitsPerItem : Word
  /-- HASH_LO (R35). -/
  hashLo      : Word
  /-- HASH_HI (R35). -/
  hashHi      : Word
  /-- WORD_INDEX (R36). -/
  wordIndex   : Word
  /-- DATA_LO (R37). -/
  dataLo      : Word
  /-- DATA_HI (R37). -/
  dataHi      : Word
  /-- M_LO (R38). -/
  mLo         : Word
  /-- M_HI (R38). -/
  mHi         : Word
  /-- K (R39). -/
  k           : Word
  /-- The command latch (R44). -/
  latch       : Latch
  /-- The bit array (R42). -/
  array       : BitArray
  /-- MODEL's own: host inputs that may still take effect before the command in flight completes (log 4). -/
  wait        : Nat
  /-- MODEL's own: how many latencies have been drawn (log 4). -/
  draws       : Nat
  /-- MODEL's own: what the host will do, in program order (log 8). -/
  inputs      : List Input
  /-- MODEL's own: the values the BFE returned to the host's reads, newest first (log 8). -/
  seen        : List Word
  deriving DecidableEq, Repr

/-- Why the machine stops. -/
inductive Fault where
  /-- Raised by a host access that touches the register window and is not an aligned 32-bit access (20_memory.md R48,
  60_exceptions.md R112: a model faults the host program). Safe: nothing can be proved of what follows. No command raises it. -/
  | hostProtocolViolation
  deriving DecidableEq, Repr

/-- Why an instruction has no meaning. -/
inductive Refusal where
  /-- Raised by an arm of `exec` for an instruction that has no meaning yet; no arm does. Safe: the machine stops. -/
  | notModelled (mnemonic : String)
  deriving DecidableEq, Repr

namespace State

/-- A latch that holds no command (70_reset_and_hazards.md R122); its hidden contents are a DESIGN CHOICE (log 6, unsafe). -/
def emptyLatch : Latch := { raw := 0, maxi := 0, bpi := 0, h := 0, widx := 0 }

/-- STATUS after reset (10_state.md R24). -/
def resetStatus : Status :=
  { busy := false, configured := false, result := false, overrun := false, err := .ok, lastop := 0 }

/-- The machine with parameters `cfg` right after its first reset (70_reset_and_hazards.md R122, R123). -/
def powerOn (cfg : Params) : State where
  cfg := cfg
  status := resetStatus
  maxItems := 0
  bitsPerItem := 0
  hashLo := 0
  hashHi := 0
  wordIndex := 0
  dataLo := 0
  dataHi := 0
  mLo := 0
  mHi := 0
  k := 0
  latch := emptyLatch
  array := { gen := 0, cells := [] }
  wait := 0
  draws := 0
  inputs := []
  seen := []

/-- The machine right after reset, with the parameters `Config.params` (log 5). -/
def reset : State := powerOn Config.params

end State
end Sys2Proof.Machine
end

