-- ==== Sys2Proof/Machine/Flags.lean ====
section
/-! DEFINITION. STATUS: its 32-bit value and every way its fields change (10_state.md R24 to R32). -/

namespace Sys2Proof.Machine

/-- The numeric codes of 60_exceptions.md R107. -/
def ErrCode.code : ErrCode → BitVec 4
  | .ok => 0
  | .invalidConfiguration => 1
  | .invalidInput => 2
  | .notConfigured => 3
  | .illegalCommand => 4
  | .indexRange => 5

/-- STATUS as the host reads it (R24): bits [31:12] are 0, then LASTOP, ERR, OVERRUN, RESULT, CONFIGURED, BUSY. -/
def Status.word (st : Status) : Word :=
  0#20 ++ st.lastop ++ st.err.code ++ BitVec.ofBool st.overrun ++ BitVec.ofBool st.result ++
    BitVec.ofBool st.configured ++ BitVec.ofBool st.busy

/-- STATUS at acceptance: only BUSY is set (R25, R31). -/
def Status.accepted (st : Status) : Status := { st with busy := true }

/-- STATUS when a CMD write is dropped: only OVERRUN is set (R28). -/
def Status.dropped (st : Status) : Status := { st with overrun := true }

/-- STATUS at completion: BUSY is cleared and ERR, RESULT and LASTOP are written (R25, R27, R29, R30, R31). -/
def Status.completed (st : Status) (op : BitVec 4) (err : ErrCode) (result : Bool) : Status :=
  { st with busy := false, err := err, result := result, lastop := op }

/-- STATUS after a host write of `v` to it: OVERRUN is cleared when v[3] = 1, and nothing else happens (R32). -/
def Status.written (st : Status) (v : Word) : Status := { st with overrun := st.overrun && !v.getLsbD 3 }

/-- STATUS when a filter has been constructed (R26). -/
def Status.constructed (st : Status) : Status := { st with configured := true }

end Sys2Proof.Machine
end

