-- ==== Sys2Proof/Machine/Operands.lean ====
section
/-! DEFINITION. Where operands come from: the latch and the derived registers (30_encoding.md R69), and the register slots of the
window (10_state.md R20) that a bus access names. -/

namespace Sys2Proof.Machine

/-- The 64-bit quantity split into two registers, the higher-numbered bits in the `_HI` one (20_memory.md R50). -/
def joinWords (hi lo : Word) : Word64 := hi ++ lo

/-- Bits [63:32]. -/
def highWord (v : Word64) : Word := v.extractLsb' 32 32

/-- Bits [31:0]. -/
def lowWord (v : Word64) : Word := v.extractLsb' 0 32

/-- How many words of 64 bits hold `m` bits: ceil(m / 64) (10_state.md R42). -/
def wordsFor (m : Nat) : Nat := (m + 63) / 64

namespace State

/-- m = concat(M_HI, M_LO), the source's bitArraySize (10_state.md R38). -/
def m (s : State) : Nat := (joinWords s.mHi s.mLo).toNat

/-- k, the source's numHashes (10_state.md R39). -/
def probeCount (s : State) : Nat := s.k.toNat

/-- NW, the number of used words (10_state.md R42). -/
def usedWords (s : State) : Nat := wordsFor s.m

/-- h = concat(HASH_HI, HASH_LO) (10_state.md R35). -/
def hashOperand (s : State) : Word64 := joinWords s.hashHi s.hashLo

end State

/-- maxItems, CONFIG's first operand (40_configure.md R72). -/
def Latch.n (l : Latch) : Nat := l.maxi.toNat

/-- bitsPerItem, CONFIG's second operand (40_configure.md R72). -/
def Latch.b (l : Latch) : Nat := l.bpi.toNat

/-- The word index of READW (43_readback.md R103). -/
def Latch.w (l : Latch) : Nat := l.widx.toNat

/-- The constant ID register (10_state.md R21). -/
def idWord : Word := 0x424C4D46#32

/-- The sixteen slots of the register window (10_state.md R20, R40). -/
inductive Slot where
  | id
  | capacity
  | cmd
  | status
  | maxItems
  | bitsPerItem
  | hashLo
  | hashHi
  | wordIndex
  | dataLo
  | dataHi
  | mLo
  | mHi
  | k
  | reserved38
  | reserved3C
  deriving DecidableEq, Repr

/-- The offsets of 10_state.md R20. -/
def Slot.offset : Slot → Nat
  | .id => 0x00
  | .capacity => 0x04
  | .cmd => 0x08
  | .status => 0x0C
  | .maxItems => 0x10
  | .bitsPerItem => 0x14
  | .hashLo => 0x18
  | .hashHi => 0x1C
  | .wordIndex => 0x20
  | .dataLo => 0x24
  | .dataHi => 0x28
  | .mLo => 0x2C
  | .mHi => 0x30
  | .k => 0x34
  | .reserved38 => 0x38
  | .reserved3C => 0x3C

/-- The slots in the order of their offsets. -/
def slotList : List Slot :=
  [.id, .capacity, .cmd, .status, .maxItems, .bitsPerItem, .hashLo, .hashHi,
   .wordIndex, .dataLo, .dataHi, .mLo, .mHi, .k, .reserved38, .reserved3C]

/-- The slot at an offset, where one starts there. -/
def slotAt (off : Nat) : Option Slot := if off % 4 = 0 then slotList[off / 4]? else none

/-- The width of an access in bytes. -/
def Width.bytes : Width → Nat
  | .w8 => 1
  | .w16 => 2
  | .w32 => 4
  | .w64 => 8

/-- What a bus access addresses. -/
inductive Target where
  /-- An aligned 32-bit access of the window (20_memory.md R48). -/
  | slot (sl : Slot)
  /-- No byte of the window (20_memory.md R49). -/
  | outside
  /-- Part of the window, but not as R48 asks. -/
  | violation
  deriving DecidableEq, Repr

/-- Which of the three an access of `width` at `addr` is, for a window at `base` (20_memory.md R47 to R49; log 10). -/
def busTarget (base addr : Nat) (width : Width) : Target :=
  if addr + width.bytes ≤ base ∨ base + 64 ≤ addr then .outside
  else if width = .w32 ∧ base ≤ addr then
    match slotAt (addr - base) with
    | some sl => .slot sl
    | none => .violation
  else .violation

end Sys2Proof.Machine
end

