-- ==== Sys2Proof/Machine/Ops.lean ====
section
/-! DEFINITION. The shared operations: the bit array's primitives (20_memory.md R53), a command's acceptance and completion
(70_reset_and_hazards.md R127 to R129), the one way a command reports an error (60_exceptions.md R106, R110), and reset (R122 to
R124). The BFE has no trap entry and no return from one (R114): `raiseError` is all that an exception is here. -/

namespace Sys2Proof.Machine

/-- The listed value of a word. -/
def lookupCell : List (Nat × Word64) → Nat → Option Word64
  | [], _ => none
  | (a, v) :: rest, w => if a = w then some v else lookupCell rest w

/-- List `v` for word `w`, keeping the indices rising. -/
def insertCell : List (Nat × Word64) → Nat → Word64 → List (Nat × Word64)
  | [], w, v => [(w, v)]
  | (a, u) :: rest, w, v =>
    if w < a then (w, v) :: (a, u) :: rest
    else if w = a then (w, v) :: rest
    else (a, u) :: insertCell rest w v

/-- Every listed index is at least `lo`, and they rise strictly. -/
def cellsRising : Nat → List (Nat × Word64) → Bool
  | _, [] => true
  | lo, (a, _) :: rest => decide (lo ≤ a) && cellsRising (a + 1) rest

namespace BitArray

/-- The canonical form: strictly rising word indices. What an unlisted word holds is not known, so no entry repeats it (log 2). -/
def wf (A : BitArray) : Bool := cellsRising 0 A.cells

/-- A word that a write has listed since the last reset. -/
def listed (A : BitArray) (w : Nat) : Bool := (lookupCell A.cells w).isSome

/-- `WordRead(w)`; an unlisted word holds the unspecified contents of its reset (R53, 70_reset_and_hazards.md R123). -/
def readWord (A : BitArray) (w : Nat) : Word64 :=
  (lookupCell A.cells w).getD (Config.unspecifiedWord A.gen w)

/-- A[w] <- v. -/
def writeWord (A : BitArray) (w : Nat) (v : Word64) : BitArray := { A with cells := insertCell A.cells w v }

/-- `WordZero(w)` for every w below `nw` (R53, 40_configure.md R77); the other words keep what they hold. -/
def zeroWords (A : BitArray) (nw : Nat) : BitArray :=
  { A with cells := (List.range nw).map (fun w => (w, 0)) ++ A.cells.filter (fun c => decide (nw ≤ c.1)) }

/-- `BitRead(p)`: bit p mod 64 of word p div 64 (R52, R53). -/
def bitRead (A : BitArray) (p : Nat) : Bool := (A.readWord (p / 64)).getLsbD (p % 64)

/-- `BitSet(p)` (R53). -/
def bitSet (A : BitArray) (p : Nat) : BitArray :=
  A.writeWord (p / 64) (A.readWord (p / 64) ||| BitVec.twoPow 64 (p % 64))

end BitArray

/-- `complete`: the end of a command with its OP, its code and its answer (00_scope.md R14, 70_reset_and_hazards.md R129). -/
def complete (s : State) (op : BitVec 4) (err : ErrCode) (result : Bool) : State :=
  { s with status := s.status.completed op err result }

/-- `raise err`: the command ends with that code, RESULT = 0 and no other effect (60_exceptions.md R106, R110). -/
def raiseError (s : State) (op : BitVec 4) (err : ErrCode) : State := complete s op err false

/-- The latch that an acceptance of `raw` fills from the operand registers (10_state.md R44). -/
def sampleLatch (s : State) (raw : Word) : Latch :=
  { raw := raw, maxi := s.maxItems, bpi := s.bitsPerItem, h := s.hashOperand, widx := s.wordIndex }

/-- A command `raw` in flight that completes after `latency` more host inputs. -/
def latchCommand (s : State) (raw : Word) (latency : Nat) : State :=
  { s with status := s.status.accepted, latch := sampleLatch s raw, wait := latency }

/-- Acceptance of a CMD write (70_reset_and_hazards.md R127); its latency is a free value (log 4). -/
def acceptCommand (s : State) (raw : Word) : State :=
  { latchCommand s raw (Config.freeLatency s.draws) with draws := s.draws + 1 }

/-- A CMD write while BUSY = 1 (70_reset_and_hazards.md R128). -/
def dropCommand (s : State) : State := { s with status := s.status.dropped }

/-- A CMD write is accepted or dropped (10_state.md R23). -/
def submitCommand (s : State) (raw : Word) : State :=
  if s.status.busy then dropCommand s else acceptCommand s raw

/-- Reset (70_reset_and_hazards.md R122 to R124): the registers take their reset values, a command in flight is abandoned, and the
bit array holds new unspecified contents. The parameters and the host's own future and past stay (log 9). -/
def resetMachine (s : State) : State :=
  { State.powerOn s.cfg with
    array := { gen := s.array.gen + 1, cells := [] }
    draws := s.draws
    inputs := s.inputs
    seen := s.seen }

end Sys2Proof.Machine
end

