-- ==== Sys2Proof/Machine/Bus.lean ====
section
/-! DEFINITION. The host's accesses to the register window (20_memory.md R47 to R51) and its other inputs. -/

namespace Sys2Proof.Machine

/-- What a read of a slot returns (10_state.md R20 to R24, R33 to R40). -/
def readSlot (s : State) : Slot → Word
  | .id => idWord
  | .capacity => s.cfg.capWords
  | .cmd => 0
  | .status => s.status.word
  | .maxItems => s.maxItems
  | .bitsPerItem => s.bitsPerItem
  | .hashLo => s.hashLo
  | .hashHi => s.hashHi
  | .wordIndex => s.wordIndex
  | .dataLo => s.dataLo
  | .dataHi => s.dataHi
  | .mLo => s.mLo
  | .mHi => s.mHi
  | .k => s.k
  | .reserved38 => 0
  | .reserved3C => 0

/-- What a write of `v` to a slot does (10_state.md R23, R32 to R36, R40, R41; 20_memory.md R51). -/
def writeSlot (s : State) (v : Word) : Slot → State
  | .id => s
  | .capacity => s
  | .cmd => submitCommand s v
  | .status => { s with status := s.status.written v }
  | .maxItems => { s with maxItems := v }
  | .bitsPerItem => { s with bitsPerItem := v }
  | .hashLo => { s with hashLo := v }
  | .hashHi => { s with hashHi := v }
  | .wordIndex => { s with wordIndex := v }
  | .dataLo => s
  | .dataHi => s
  | .mLo => s
  | .mHi => s
  | .k => s
  | .reserved38 => s
  | .reserved3C => s

/-- The host has read the value `v` from the BFE. No read has another effect (10_state.md R41). -/
def observe (s : State) (v : Word) : State := { s with seen := v :: s.seen }

/-- One bus write (20_memory.md R48, R49). An access outside the window does not reach the BFE (log 11). -/
def busWrite (s : State) (addr : Nat) (width : Width) (v : Word64) : Host.Outcome State Fault Refusal :=
  match busTarget s.cfg.base addr width with
  | .slot sl => .next (writeSlot s (v.setWidth 32) sl)
  | .outside => .next s
  | .violation => .fault .hostProtocolViolation

/-- One bus read (20_memory.md R48, R49). -/
def busRead (s : State) (addr : Nat) (width : Width) : Host.Outcome State Fault Refusal :=
  match busTarget s.cfg.base addr width with
  | .slot sl => .next (observe s (readSlot s sl))
  | .outside => .next s
  | .violation => .fault .hostProtocolViolation

/-- One turn of `loop: RD STATUS -> s ; if s[0] == 1 goto loop` (30_encoding.md R71): the loop stays ahead while BUSY = 1. -/
def pollOnce (s : State) : State :=
  let t := observe s (readSlot s .status)
  if (readSlot s .status).getLsbD 0 then { t with inputs := .poll :: s.inputs } else t

/-- What one input does, once it has been taken off the queue. -/
def hostInput (s : State) : Input → Host.Outcome State Fault Refusal
  | .write addr width v => busWrite s addr width v
  | .read addr width => busRead s addr width
  | .poll => .next (pollOnce s)
  | .reset => .next (resetMachine s)

/-- The host's next input is taken off the queue, and one unit of the latency of a command in flight is used up (log 4). -/
def takeInput (s : State) (rest : List Input) : State := { s with inputs := rest, wait := s.wait - 1 }

/-- The host's move: its next input takes effect. With no input left the BFE waits and keeps all its state
(70_reset_and_hazards.md R125, 60_exceptions.md R121). -/
def hostMove (s : State) : Host.Outcome State Fault Refusal :=
  match s.inputs with
  | [] => .next s
  | i :: rest => hostInput (takeInput s rest) i

end Sys2Proof.Machine
end

