-- ==== Sys2Proof/Machine/Configure.lean ====
section
/-! DEFINITION. The configuration command and its two sizing functions (40_configure.md). -/

namespace Sys2Proof.Machine

/-- KTAB[1] to KTAB[130], a row of the table of 40_configure.md R76 a line. -/
def ktabLow : List Nat :=
  [1, 1, 2, 3, 3, 4, 5, 6, 6, 7] ++
  [8, 8, 9, 10, 10, 11, 12, 12, 13, 14] ++
  [15, 15, 16, 17, 17, 18, 19, 19, 20, 21] ++
  [21, 22, 23, 24, 24, 25, 26, 26, 27, 28] ++
  [28, 29, 30, 30, 31, 32, 33, 33, 34, 35] ++
  [35, 36, 37, 37, 38, 39, 40, 40, 41, 42] ++
  [42, 43, 44, 44, 45, 46, 46, 47, 48, 49] ++
  [49, 50, 51, 51, 52, 53, 53, 54, 55, 55] ++
  [56, 57, 58, 58, 59, 60, 60, 61, 62, 62] ++
  [63, 64, 64, 65, 66, 67, 67, 68, 69, 69] ++
  [70, 71, 71, 72, 73, 73, 74, 75, 76, 76] ++
  [77, 78, 78, 79, 80, 80, 81, 82, 82, 83] ++
  [84, 85, 85, 86, 87, 87, 88, 89, 89, 90]

/-- KTAB[131] to KTAB[255]. -/
def ktabHigh : List Nat :=
  [91, 91, 92, 93, 94, 94, 95, 96, 96, 97] ++
  [98, 98, 99, 100, 101, 101, 102, 103, 103, 104] ++
  [105, 105, 106, 107, 107, 108, 109, 110, 110, 111] ++
  [112, 112, 113, 114, 114, 115, 116, 116, 117, 118] ++
  [119, 119, 120, 121, 121, 122, 123, 123, 124, 125] ++
  [125, 126, 127, 128, 128, 129, 130, 130, 131, 132] ++
  [132, 133, 134, 134, 135, 136, 137, 137, 138, 139] ++
  [139, 140, 141, 141, 142, 143, 143, 144, 145, 146] ++
  [146, 147, 148, 148, 149, 150, 150, 151, 152, 152] ++
  [153, 154, 155, 155, 156, 157, 157, 158, 159, 159] ++
  [160, 161, 162, 162, 163, 164, 164, 165, 166, 166] ++
  [167, 168, 168, 169, 170, 171, 171, 172, 173, 173] ++
  [174, 175, 175, 176, 177]

/-- KTAB[b] for 1 <= b <= 255 (40_configure.md R76); other b are refused before it is read (R73). -/
def ktab (b : Nat) : Nat := (ktabLow ++ ktabHigh).getD (b - 1) 0

/-- `ConfigValid(n, b, CAP_BITS)` (40_configure.md R73). -/
def configValid (n b capBits : Nat) : Bool :=
  decide (1 ≤ n) && decide (n ≤ 2 ^ 31 - 1) && decide (1 ≤ b) && decide (b ≤ 255) && decide (n * b ≤ capBits)

/-- The filter that a valid CONFIG of n and b constructs (40_configure.md R72, R74, R77): m, k, zeroed used words, CONFIGURED. -/
def constructFilter (s : State) (n b : Nat) : State :=
  let m : Word64 := BitVec.ofNat 64 (n * b)
  { s with
    mLo := lowWord m
    mHi := highWord m
    k := BitVec.ofNat 32 (ktab b)
    array := s.array.zeroWords (wordsFor (n * b))
    status := s.status.constructed }

/-- CONFIG (40_configure.md R72). -/
def execConfig (s : State) : Host.Outcome State Fault Refusal :=
  if configValid s.latch.n s.latch.b s.cfg.capBits then
    .next (complete (constructFilter s s.latch.n s.latch.b) 0x1#4 .ok false)
  else .next (raiseError s 0x1#4 .invalidConfiguration)

end Sys2Proof.Machine
end

