-- ==== Sys2Proof/Machine/Probe.lean ====
section
/-! DEFINITION. Probe indices by double hashing and the K_LANES lanes that visit them in beats (41_probe.md). -/

namespace Sys2Proof.Machine

/-- h1, the upper half of the hash, unsigned (41_probe.md R81). -/
def hashUpper (h : Word64) : Nat := (highWord h).toNat

/-- h2, the lower half of the hash, unsigned (41_probe.md R81). -/
def hashLower (h : Word64) : Nat := (lowWord h).toNat

/-- p_i = (h1 + i * h2) mod m in exact arithmetic (41_probe.md R81, R82). The spec gives it for m >= 1 only (log 18). -/
def probeIndex (h : Word64) (m i : Nat) : Nat := (hashUpper h + i * hashLower h) % m

/-- `Probes(h, m, k)`, in order of i = 0 .. k-1 (41_probe.md R81). -/
def probes (h : Word64) (m k : Nat) : List Nat := (List.range k).map (probeIndex h m)

/-- The datapath without a multiplier (41_probe.md R84): the probe `p`, and then each next one by adding `s` and, where that
reaches `m`, subtracting `m`. -/
def probesFrom (m s : Nat) : Nat → Nat → List Nat
  | 0, _ => []
  | k + 1, p => p :: probesFrom m s k (if p + s < m then p + s else p + s - m)

/-- The probe sequence computed by the incremental form (41_probe.md R84). -/
def probesIncremental (h : Word64) (m k : Nat) : List Nat := probesFrom m (hashLower h % m) k (hashUpper h % m)

/-- SetMask(w): bit q is set iff some index is 64 w + q (41_probe.md R88). -/
def setMask (ps : List Nat) (w : Nat) : Word64 :=
  ps.foldr (fun p acc => if p / 64 = w then BitVec.twoPow 64 (p % 64) ||| acc else acc) 0

/-- The members of a list, each once. -/
def eachOnce : List Nat → List Nat
  | [] => []
  | w :: ws => if ws.contains w then eachOnce ws else w :: eachOnce ws

/-- The probes in beats of `lanes`: beat t holds those with i from t * lanes on (41_probe.md R87). `fuel` bounds the beats. -/
def beatsOf (lanes : Nat) : Nat → List Nat → List (List Nat)
  | 0, _ => []
  | _ + 1, [] => []
  | fuel + 1, p :: ps => (p :: ps).take lanes :: beatsOf lanes fuel ((p :: ps).drop lanes)

/-- How many lanes work: K_LANES, which is at least 1 (00_scope.md R9; log 13 for a state that says 0). -/
def laneCount (c : Params) : Nat := max 1 c.kLanes

/-- All beats of a command on the probes `ps` (41_probe.md R87). -/
def beats (lanes : Nat) (ps : List Nat) : List (List Nat) := beatsOf lanes ps.length ps

/-- One beat of an INSERT: every word touched is written once, with the OR of all its bits (41_probe.md R90). -/
def setBeat (A : BitArray) (ps : List Nat) : BitArray :=
  (eachOnce (ps.map (· / 64))).foldl (fun B w => B.writeWord w (B.readWord w ||| setMask ps w)) A

/-- All beats of an INSERT (41_probe.md R87, R88). -/
def setProbes (lanes : Nat) (A : BitArray) (ps : List Nat) : BitArray := (beats lanes ps).foldl setBeat A

/-- The beats of a QUERY, stopping after the first beat that reads a 0 (41_probe.md R88, R91; log 16). -/
def testBeats (A : BitArray) : List (List Nat) → Bool
  | [] => true
  | ps :: rest => if ps.all (fun p => A.bitRead p) then testBeats A rest else false

/-- The answer of a QUERY on the probes `ps` (41_probe.md R88). -/
def testProbes (lanes : Nat) (A : BitArray) (ps : List Nat) : Bool := testBeats A (beats lanes ps)

end Sys2Proof.Machine
end

