-- ==== Sys2Proof/Machine/Membership.lean ====
section
/-! DEFINITION. The membership commands INSERT and QUERY (42_membership.md). -/

namespace Sys2Proof.Machine

/-- The bit positions of the latched hash in the current filter. -/
def latchedProbes (s : State) : List Nat := probes s.latch.h s.m s.probeCount

/-- INSERT (42_membership.md R92; the order of the errors is 60_exceptions.md R109's). -/
def execInsert (ie : Bool) (s : State) : Host.Outcome State Fault Refusal :=
  if !s.status.configured then .next (raiseError s 0x2#4 .notConfigured)
  else if ie then .next (raiseError s 0x2#4 .invalidInput)
  else
    .next (complete { s with array := setProbes (laneCount s.cfg) s.array (latchedProbes s) } 0x2#4 .ok false)

/-- QUERY (42_membership.md R93). -/
def execQuery (ie : Bool) (s : State) : Host.Outcome State Fault Refusal :=
  if !s.status.configured then .next (raiseError s 0x3#4 .notConfigured)
  else if ie then .next (raiseError s 0x3#4 .invalidInput)
  else .next (complete s 0x3#4 .ok (testProbes (laneCount s.cfg) s.array (latchedProbes s)))

end Sys2Proof.Machine
end

