-- ==== Sys2Proof/Machine/Readback.lean ====
section
/-! DEFINITION. The readback command READW (43_readback.md). -/

namespace Sys2Proof.Machine

/-- READW (43_readback.md R103). -/
def execReadw (s : State) : Host.Outcome State Fault Refusal :=
  if !s.status.configured then .next (raiseError s 0x4#4 .notConfigured)
  else if s.usedWords ≤ s.latch.w then .next (raiseError s 0x4#4 .indexRange)
  else
    let v := s.array.readWord s.latch.w
    .next (complete { s with dataLo := lowWord v, dataHi := highWord v } 0x4#4 .ok false)

end Sys2Proof.Machine
end

