-- ==== Sys2Proof/Machine/Dispatch.lean ====
section
/-! DEFINITION. One arm per command. -/

namespace Sys2Proof.Machine

def exec (i : Instr) (s : State) : Host.Outcome State Fault Refusal :=
  match i with
  | .config => Sys2Proof.Machine.execConfig s
  | .insert ie => Sys2Proof.Machine.execInsert ie s
  | .query ie => Sys2Proof.Machine.execQuery ie s
  | .readw => Sys2Proof.Machine.execReadw s

end Sys2Proof.Machine
end

