-- ==== Sys2Proof/Machine/Engine.lean ====
section
/-! DEFINITION. The engine's one step, completion of the latched command (70_reset_and_hazards.md R129), and when it is taken. -/

namespace Sys2Proof.Machine

/-- An ILLEGAL word completes with IllegalCommand and LASTOP = CMD[3:0] of the word (60_exceptions.md R108). -/
def completeIllegal (s : State) : State := raiseError s (fieldOp s.latch.raw) .illegalCommand

/-- Completion: decode the latched word and apply the rule of its command (70_reset_and_hazards.md R129). -/
def engineMove (s : State) : Host.Outcome State Fault Refusal :=
  match decode s.latch.raw with
  | .command i => exec i s
  | .illegal _ => .next (completeIllegal s)

/-- The engine moves when a command is in flight and either its latency is used up or the host has nothing more to do. So every
accepted command completes (70_reset_and_hazards.md R130), after a latency the spec leaves free (log 4). -/
def engineTurn (s : State) : Bool := s.status.busy && (s.wait == 0 || s.inputs.isEmpty)

end Sys2Proof.Machine
end

