-- ==== Sys2Proof/Machine/Step.lean ====
section
/-! DEFINITION. One step of the system of two agents (10_state.md R17), and the placing of a command word for the next step. -/

namespace Sys2Proof.Machine

/-- One step: a completion by the engine, or one host input. -/
def step (s : State) : Host.Outcome State Fault Refusal :=
  if engineTurn s then engineMove s else hostMove s

/-- The BFE fetches nothing (10_state.md R19): a command runs once it has been accepted into the latch. This is the acceptance of
the word `w` (70_reset_and_hazards.md R127), with the operand registers as they stand and latency 0, so that the next step is its
completion (log 8). -/
def State.withFetchWord (s : State) (nbits w : Nat) : State :=
  latchCommand s (BitVec.ofNat 32 (w % 2 ^ nbits)) 0

end Sys2Proof.Machine
end

