-- ==== Sys2Proof/Machine/HostProgram.lean ====
section
/-! DEFINITION. The host-program notation of 30_encoding.md R70 and the pseudo-instructions of R71, as inputs of the machine. -/

namespace Sys2Proof.Machine.HostProgram

/-- `WR <reg>, <value>` (R70). -/
def wr (base : Nat) (sl : Slot) (v : Word) : Input := .write (base + sl.offset) .w32 (v.setWidth 64)

/-- `RD <reg>` (R70). -/
def rd (base : Nat) (sl : Slot) : Input := .read (base + sl.offset) .w32

/-- `CONFIG n, b` (R71). -/
def config (base : Nat) (n b : Word) : List Input :=
  [wr base .maxItems n, wr base .bitsPerItem b, wr base .cmd 0x1#32, .poll]

/-- `INSERT hh, hl` (R71). -/
def insert (base : Nat) (hh hl : Word) : List Input :=
  [wr base .hashHi hh, wr base .hashLo hl, wr base .cmd 0x2#32, .poll]

/-- `QUERY hh, hl` (R71). -/
def query (base : Nat) (hh hl : Word) : List Input :=
  [wr base .hashHi hh, wr base .hashLo hl, wr base .cmd 0x3#32, .poll, rd base .status]

/-- `READW w` (R71). -/
def readw (base : Nat) (w : Word) : List Input :=
  [wr base .wordIndex w, wr base .cmd 0x4#32, .poll, rd base .dataLo, rd base .dataHi]

end Sys2Proof.Machine.HostProgram
end

