-- ==== Sys2Proof/Safety.lean ====
section
/-! DEFINITION. The terms in which statements about runs are made: the invariant of 10_state.md R43, filter lifetimes
(00_scope.md section 6), and hosts that keep to the interface contract (20_memory.md R48). -/

namespace Sys2Proof.Machine

/-- The filter of a configured machine (10_state.md R43 (a) to (c); R42 for the used words, which a CONFIG has written). -/
structure FilterOk (s : State) : Prop where
  /-- (a) and (b): m and k are those of some valid maxItems and bitsPerItem. -/
  sized : ∃ n b, configValid n b s.cfg.capBits = true ∧ s.m = n * b ∧ s.probeCount = ktab b
  /-- Every used word has been written since reset, so no command reads unspecified contents (70_reset_and_hazards.md R123). -/
  written : ∀ w, w < s.usedWords → s.array.listed w = true
  /-- (c): the bits of the used words from m on are 0. -/
  padding : ∀ p, s.m ≤ p → p < 64 * s.usedWords → s.array.bitRead p = false

/-- The invariant of the machine (10_state.md R43, with the parameters' bounds and the array's form). -/
structure Inv (s : State) : Prop where
  cfg_ok : s.cfg.wellFormed = true
  array_wf : s.array.wf = true
  in_storage : ∀ w, s.array.listed w = true → w < s.cfg.capWords.toNat
  no_filter : s.status.configured = false → s.mLo = 0 ∧ s.mHi = 0 ∧ s.k = 0
  filter : s.status.configured = true → FilterOk s

/-- The step from `s` begins a new filter lifetime or ends all: a CONFIG that succeeds, or a reset (00_scope.md section 6). -/
def startsLifetime (s : State) : Bool :=
  if engineTurn s then
    decide (decode s.latch.raw = .command .config) && configValid s.latch.n s.latch.b s.cfg.capBits
  else
    match s.inputs with
    | .reset :: _ => true
    | _ => false

/-- A step inside one filter lifetime. -/
def lifetimeStep (s t : State) : Prop := step s = .next t ∧ startsLifetime s = false

/-- `t` is reached from `s` inside one filter lifetime. -/
def sameLifetime (s t : State) : Prop := Relation.ReflTransGen lifetimeStep s t

/-- The input keeps to the interface contract (20_memory.md R48). -/
def inputAllowed (base : Nat) : Input → Bool
  | .write addr width _ => decide (busTarget base addr width ≠ .violation)
  | .read addr width => decide (busTarget base addr width ≠ .violation)
  | .poll => true
  | .reset => true

/-- Everything the host still does keeps to the interface contract. -/
def hostAllowed (s : State) : Bool := s.inputs.all (inputAllowed s.cfg.base)

/-- Every probe of `h` in the current filter names a bit that is set: the answer to `h` is 1 (42_membership.md R93). -/
def covers (s : State) (h : Word64) : Prop := ∀ i, i < s.probeCount → s.array.bitRead (probeIndex h s.m i) = true

/-- The state with the operands `l` in the latch. -/
def withLatch (s : State) (l : Latch) : State := { s with latch := l }

/-- A QUERY of `h` on the filter of `s` completes with ERR = OK and RESULT = `r` (42_membership.md R93). -/
def Answers (s : State) (h : Word64) (r : Bool) : Prop :=
  ∃ t, exec (.query false) (withLatch s { s.latch with h := h }) = .next t ∧
    t.status.err = .ok ∧ t.status.result = r

/-- Commands executed one after the other, each with its own latched operands (20_memory.md R57: in the order of acceptance). -/
def runCommands : List (Instr × Latch) → State → Host.Outcome State Fault Refusal
  | [], s => .next s
  | (i, l) :: rest, s =>
    match exec i (withLatch s l) with
    | .next t => runCommands rest t
    | .fault r => .fault r
    | .refused r => .refused r

/-- The hashes that the INSERTs without input error among some commands carry. -/
def insertedHashes (cs : List (Instr × Latch)) : List Word64 :=
  cs.filterMap fun c => if c.1 = .insert false then some c.2.h else none

/-- Nothing a host can learn, now or later, tells the two machines apart: the same storage size, the same registers and latch, and,
where a filter exists, the same used words. K_LANES, the latencies and all words outside the filter may differ (42_membership.md
R100, 70_reset_and_hazards.md R123, R136). -/
structure SameVisible (s t : State) : Prop where
  capWords : s.cfg.capWords = t.cfg.capWords
  status : s.status = t.status
  maxItems : s.maxItems = t.maxItems
  bitsPerItem : s.bitsPerItem = t.bitsPerItem
  hashLo : s.hashLo = t.hashLo
  hashHi : s.hashHi = t.hashHi
  wordIndex : s.wordIndex = t.wordIndex
  dataLo : s.dataLo = t.dataLo
  dataHi : s.dataHi = t.dataHi
  mLo : s.mLo = t.mLo
  mHi : s.mHi = t.mHi
  k : s.k = t.k
  latch : s.latch = t.latch
  words : s.status.configured = true → ∀ w, w < s.usedWords → s.array.readWord w = t.array.readWord w

end Sys2Proof.Machine
end

