-- ==== Sys2Proof/Certificates/Slice0/Obligations.lean ====
section
/-! DEFINITION. The statements for the provers, from the numbered rules of spec/. -/

open Sys2Proof Sys2Proof.Machine

/-- 95_test_vectors.md 2.1, 30_encoding.md R64, 30_encoding.md R67: Each word of the decode vectors decodes to its command, or
is ILLEGAL for the named reason: the six legal words, unknown OPs, IE with CONFIG or READW, and single reserved bits. -/
def Obligations.TableWordsDecode : Prop :=
  decode 0x00000001#32 = .command .config ∧
  decode 0x00000002#32 = .command (.insert false) ∧ decode 0x00000102#32 = .command (.insert true) ∧
  decode 0x00000003#32 = .command (.query false) ∧ decode 0x00000103#32 = .command (.query true) ∧
  decode 0x00000004#32 = .command .readw ∧
  decode 0x00000000#32 = .illegal .unknownOp ∧ decode 0x00000005#32 = .illegal .unknownOp ∧
  decode 0x0000000F#32 = .illegal .unknownOp ∧
  decode 0x00000101#32 = .illegal .inputErrorNotAllowed ∧ decode 0x00000104#32 = .illegal .inputErrorNotAllowed ∧
  decode 0x00000012#32 = .illegal .reservedBitSet ∧ decode 0x00000202#32 = .illegal .reservedBitSet ∧
  decode 0x10000002#32 = .illegal .reservedBitSet ∧ decode 0xFFFFFFFF#32 = .illegal .reservedBitSet

/-- 30_encoding.md R63, 30_encoding.md R67: For every 32-bit word and every instruction, the word decodes to the instruction
if and only if it is the instruction's encoding; so decode after encode is the identity, and no second word decodes to a
command. -/
def Obligations.DecodesExactlyTheEncodedWord : Prop :=
  ∀ (raw : Word) (i : Instr), decode raw = .command i ↔ raw = encode i

/-- R68: A word is CONFIG, INSERT, QUERY or READW iff the word ANDed with the row's mask is the row's match; a word that
matches no row is ILLEGAL. The rows are disjoint: no word matches two of them. -/
def Obligations.MatchAndMaskDecideTheCommand : Prop :=
  ∀ raw : Word,
    (decode raw = .command .config ↔ raw &&& 0xFFFFFFFF#32 = 0x00000001#32) ∧
    ((∃ ie, decode raw = .command (.insert ie)) ↔ raw &&& 0xFFFFFEFF#32 = 0x00000002#32) ∧
    ((∃ ie, decode raw = .command (.query ie)) ↔ raw &&& 0xFFFFFEFF#32 = 0x00000003#32) ∧
    (decode raw = .command .readw ↔ raw &&& 0xFFFFFFFF#32 = 0x00000004#32) ∧
    ((∃ why, decode raw = .illegal why) ↔
      raw &&& 0xFFFFFFFF#32 ≠ 0x00000001#32 ∧ raw &&& 0xFFFFFEFF#32 ≠ 0x00000002#32 ∧
      raw &&& 0xFFFFFEFF#32 ≠ 0x00000003#32 ∧ raw &&& 0xFFFFFFFF#32 ≠ 0x00000004#32) ∧
    [raw &&& 0xFFFFFFFF#32 == 0x00000001#32, raw &&& 0xFFFFFEFF#32 == 0x00000002#32,
      raw &&& 0xFFFFFEFF#32 == 0x00000003#32, raw &&& 0xFFFFFFFF#32 == 0x00000004#32].count true ≤ 1

/-- R66: A word with a bit of [7:4] or [31:9] set is ILLEGAL, whatever its other bits. -/
def Obligations.ReservedBitMakesIllegal : Prop :=
  ∀ (raw : Word) (j : Nat), (4 ≤ j ∧ j ≤ 7) ∨ (9 ≤ j ∧ j ≤ 31) → raw.getLsbD j = true →
    ∃ why, decode raw = .illegal why

/-- 70_reset_and_hazards.md R129, 10_state.md R17: When BUSY = 1 and the drawn latency is used up or the host has nothing more
to do, and the latched word decodes to i, step is exec i. In every other state with a pending input, step is that input's
effect with the input taken off the queue and one unit of latency used. When the engine's turn comes is the model's choice
(log 4). -/
def Obligations.StepRunsTheLatchedCommand : Prop :=
  (∀ (s : State) (i : Instr), s.status.busy = true → (s.wait = 0 ∨ s.inputs = []) →
    decode s.latch.raw = .command i → step s = exec i s) ∧
  (∀ (s : State) (x : Input) (rest : List Input), (s.status.busy = false ∨ s.wait ≠ 0) → s.inputs = x :: rest →
    step s = hostInput { s with inputs := rest, wait := s.wait - 1 } x)

/-- R108: When the engine completes a word that is ILLEGAL, ERR = 4, RESULT = 0, LASTOP = CMD[3:0] and BUSY = 0, and nothing
else changes, whether or not a filter exists. -/
def Obligations.IllegalWordCompletesWithIllegalCommand : Prop :=
  (∀ (s : State) (why : Illegal), engineTurn s = true → decode s.latch.raw = .illegal why →
    step s = .next { s with status := { s.status with
      busy := false, err := .illegalCommand, result := false, lastop := s.latch.raw.extractLsb' 0 4 } }) ∧
  ErrCode.illegalCommand.code = 4#4

/-- 40_configure.md R72, 40_configure.md R73, 40_configure.md R74, 40_configure.md R77: For every maxItems n in 1 .. 2^31 - 1
and bitsPerItem b in 1 .. 255 with n * b <= CAP_BITS, CONFIG answers a next state with M_HI:M_LO = n * b, K = KTAB[b], the
words below ceil(m/64) zero and the others as before, CONFIGURED = 1, ERR = OK, RESULT = 0, LASTOP = 1, BUSY = 0, OVERRUN and
everything else unchanged. -/
def Obligations.ConfigConstructsTheFilter : Prop :=
  ∀ s : State, 1 ≤ s.latch.maxi.toNat → s.latch.maxi.toNat ≤ 2 ^ 31 - 1 →
    1 ≤ s.latch.bpi.toNat → s.latch.bpi.toNat ≤ 255 →
    s.latch.maxi.toNat * s.latch.bpi.toNat ≤ 64 * s.cfg.capWords.toNat →
    ∃ t, exec .config s = .next t ∧
      t.m = s.latch.maxi.toNat * s.latch.bpi.toNat ∧
      t.mLo.toNat = s.latch.maxi.toNat * s.latch.bpi.toNat % 2 ^ 32 ∧
      t.mHi.toNat = s.latch.maxi.toNat * s.latch.bpi.toNat / 2 ^ 32 ∧
      t.k.toNat = ktab s.latch.bpi.toNat ∧
      (∀ w, t.array.readWord w =
        if w < (s.latch.maxi.toNat * s.latch.bpi.toNat + 63) / 64 then 0 else s.array.readWord w) ∧
      t.array.gen = s.array.gen ∧
      t = { s with
        mLo := t.mLo
        mHi := t.mHi
        k := t.k
        array := t.array
        status := { s.status with busy := false, configured := true, result := false, err := .ok, lastop := 0x1#4 } }

/-- R78: When n = 0, n >= 2^31, b = 0, b > 255 or n * b > CAP_BITS, CONFIG completes with ERR = 1, RESULT = 0, LASTOP = 1,
BUSY = 0, and A, M, K, CONFIGURED and everything else keep their values. -/
def Obligations.InvalidConfigKeepsTheFilter : Prop :=
  (∀ s : State, ¬(1 ≤ s.latch.maxi.toNat ∧ s.latch.maxi.toNat ≤ 2 ^ 31 - 1 ∧
      1 ≤ s.latch.bpi.toNat ∧ s.latch.bpi.toNat ≤ 255 ∧
      s.latch.maxi.toNat * s.latch.bpi.toNat ≤ 64 * s.cfg.capWords.toNat) →
    exec .config s = .next { s with status := { s.status with
      busy := false, err := .invalidConfiguration, result := false, lastop := 0x1#4 } }) ∧
  ErrCode.invalidConfiguration.code = 1#4

/-- 40_configure.md R75, 40_configure.md R76: For every b from 1 to 255 the table entry is max(1, round(b * ln 2)) and floor(b
* ln 2 + 1/2) with the real logarithm, and (b * 0xB17217F7 + 2^31) div 2^32. -/
def Obligations.ProbeCountIsTheRoundedProduct : Prop :=
  ∀ b : Nat, 1 ≤ b → b ≤ 255 →
    (ktab b : ℤ) = max 1 (round ((b : ℝ) * Real.log 2)) ∧
    (ktab b : ℤ) = ⌊(b : ℝ) * Real.log 2 + 1 / 2⌋ ∧
    ktab b = (b * 0xB17217F7 + 2 ^ 31) / 2 ^ 32

/-- 42_membership.md R92, 41_probe.md R81, 41_probe.md R82, 41_probe.md R88: On a configured machine INSERT answers a next
state in which bit p is 1 iff it was 1 or p = (h1 + i * h2) mod m for some i < k, with h1 and h2 the upper and lower 32 bits
of the latched hash; every word no probe lies in reads as before; STATUS has ERR = OK, RESULT = 0, LASTOP = 2, BUSY = 0; all
else is unchanged. m >= 1 is part of the invariant. -/
def Obligations.InsertSetsExactlyTheProbedBits : Prop :=
  ∀ s : State, s.status.configured = true → 1 ≤ s.m →
    ∃ t, exec (.insert false) s = .next t ∧
      (∀ p, t.array.bitRead p = true ↔ s.array.bitRead p = true ∨
        ∃ i, i < s.k.toNat ∧
          p = ((s.latch.h.extractLsb' 32 32).toNat + i * (s.latch.h.extractLsb' 0 32).toNat) % s.m) ∧
      (∀ w, (∀ i, i < s.k.toNat →
          ((s.latch.h.extractLsb' 32 32).toNat + i * (s.latch.h.extractLsb' 0 32).toNat) % s.m / 64 ≠ w) →
        t.array.readWord w = s.array.readWord w) ∧
      t.array.gen = s.array.gen ∧
      t = { s with
        array := t.array
        status := { s.status with busy := false, result := false, err := .ok, lastop := 0x2#4 } }

/-- 42_membership.md R93, 41_probe.md R81, 41_probe.md R82, 41_probe.md R91: On a configured machine QUERY answers a next
state whose RESULT is 1 iff all bits (h1 + i * h2) mod m, i < k, are 1; ERR = OK, LASTOP = 3, BUSY = 0; A and everything else
is unchanged. m >= 1 is part of the invariant. -/
def Obligations.QueryAnswersTheProbedBits : Prop :=
  ∀ s : State, s.status.configured = true → 1 ≤ s.m →
    ∃ t, exec (.query false) s = .next t ∧
      (t.status.result = true ↔ ∀ i, i < s.k.toNat →
        s.array.bitRead (((s.latch.h.extractLsb' 32 32).toNat + i * (s.latch.h.extractLsb' 0 32).toNat) % s.m) = true) ∧
      t = { s with status := { s.status with
        busy := false, result := t.status.result, err := .ok, lastop := 0x3#4 } }

/-- R102: On a configured machine an INSERT or QUERY with IE = 1 completes with ERR = 2, RESULT = 0, its own LASTOP and BUSY =
0, so that the host may resubmit at once; everything else is unchanged. -/
def Obligations.MalformedInputIsLocal : Prop :=
  (∀ s : State, s.status.configured = true →
    exec (.insert true) s = .next { s with status := { s.status with
      busy := false, err := .invalidInput, result := false, lastop := 0x2#4 } } ∧
    exec (.query true) s = .next { s with status := { s.status with
      busy := false, err := .invalidInput, result := false, lastop := 0x3#4 } }) ∧
  ErrCode.invalidInput.code = 2#4

/-- 60_exceptions.md R107, 60_exceptions.md R109, 60_exceptions.md R110: With CONFIGURED = 0, INSERT and QUERY with either IE,
and READW, complete with ERR = 3, RESULT = 0, their own LASTOP and BUSY = 0, and change nothing else. -/
def Obligations.NoFilterMeansNotConfigured : Prop :=
  (∀ s : State, s.status.configured = false →
    (∀ ie, exec (.insert ie) s = .next { s with status := { s.status with
      busy := false, err := .notConfigured, result := false, lastop := 0x2#4 } }) ∧
    (∀ ie, exec (.query ie) s = .next { s with status := { s.status with
      busy := false, err := .notConfigured, result := false, lastop := 0x3#4 } }) ∧
    exec .readw s = .next { s with status := { s.status with
      busy := false, err := .notConfigured, result := false, lastop := 0x4#4 } }) ∧
  ErrCode.notConfigured.code = 3#4

/-- 43_readback.md R103, 10_state.md R37: On a configured machine with w < ceil(m/64), READW answers the next state with
DATA_LO = A[w][31:0], DATA_HI = A[w][63:32], ERR = OK, RESULT = 0, LASTOP = 4, BUSY = 0, and everything else unchanged. -/
def Obligations.ReadwReturnsTheWord : Prop :=
  ∀ s : State, s.status.configured = true → s.latch.widx.toNat < (s.m + 63) / 64 →
    ∃ t, exec .readw s = .next t ∧
      t.dataLo.toNat = (s.array.readWord s.latch.widx.toNat).toNat % 2 ^ 32 ∧
      t.dataHi.toNat = (s.array.readWord s.latch.widx.toNat).toNat / 2 ^ 32 ∧
      t = { s with
        dataLo := t.dataLo
        dataHi := t.dataHi
        status := { s.status with busy := false, result := false, err := .ok, lastop := 0x4#4 } }

/-- 43_readback.md R103, 60_exceptions.md R107: On a configured machine with w >= ceil(m/64), READW completes with ERR = 5,
RESULT = 0, LASTOP = 4, BUSY = 0, and changes nothing else, DATA included. -/
def Obligations.ReadwOutOfRangeKeepsData : Prop :=
  (∀ s : State, s.status.configured = true → (s.m + 63) / 64 ≤ s.latch.widx.toNat →
    exec .readw s = .next { s with status := { s.status with
      busy := false, err := .indexRange, result := false, lastop := 0x4#4 } }) ∧
  ErrCode.indexRange.code = 5#4

/-- R94: Whatever its outcome, a QUERY answers a next state that differs from the old one in STATUS only, with CONFIGURED and
OVERRUN unchanged. -/
def Obligations.QueryWritesOnlyStatus : Prop :=
  ∀ (ie : Bool) (s : State), ∃ t, exec (.query ie) s = .next t ∧ t = { s with status := t.status } ∧
    t.status.configured = s.status.configured ∧ t.status.overrun = s.status.overrun

/-- R104: Whatever its outcome, a READW answers a next state that differs from the old one in STATUS and, only when ERR = OK,
in DATA_LO and DATA_HI; CONFIGURED and OVERRUN are unchanged. -/
def Obligations.ReadwWritesOnlyStatusAndData : Prop :=
  ∀ s : State, ∃ t, exec .readw s = .next t ∧
    t = { s with status := t.status, dataLo := t.dataLo, dataHi := t.dataHi } ∧
    (t.status.err ≠ .ok → t.dataLo = s.dataLo ∧ t.dataHi = s.dataHi) ∧
    t.status.configured = s.status.configured ∧ t.status.overrun = s.status.overrun

/-- R110: For every state in which the engine completes a command (legal or not) and the code is not OK, the next state
differs from the old one only in BUSY (0), ERR, RESULT (0) and LASTOP: the array, M, K, CONFIGURED, OVERRUN, DATA and the
operand registers are unchanged. -/
def Obligations.FailingCommandChangesOnlyStatus : Prop :=
  ∀ s t : State, engineTurn s = true → step s = .next t → t.status.err ≠ .ok →
    t = { s with status := { s.status with
      busy := false, err := t.status.err, result := false, lastop := t.status.lastop } }

/-- R109: Every completion answers a next state whose ERR is IllegalCommand for an ILLEGAL word; else NotConfigured for
INSERT, QUERY or READW with CONFIGURED = 0; else InvalidInput for INSERT or QUERY with IE = 1; else InvalidConfiguration for
an invalid CONFIG or IndexRange for a READW of an unused word; else OK. Word 0x00000102 with CONFIGURED = 0 reports
NotConfigured. -/
def Obligations.EachCommandReportsTheFirstCause : Prop :=
  (∀ s : State, engineTurn s = true → ∃ t, step s = .next t ∧
    t.status.err =
      match decode s.latch.raw with
      | .illegal _ => .illegalCommand
      | .command i =>
        if i ≠ .config ∧ s.status.configured = false then .notConfigured
        else if i = .insert true ∨ i = .query true then .invalidInput
        else if i = .config ∧ configValid s.latch.maxi.toNat s.latch.bpi.toNat s.cfg.capBits = false then
          .invalidConfiguration
        else if i = .readw ∧ s.usedWords ≤ s.latch.widx.toNat then .indexRange
        else .ok) ∧
  (∀ s : State, engineTurn s = true → s.latch.raw = 0x00000102#32 → s.status.configured = false →
    ∃ t, step s = .next t ∧ t.status.err = .notConfigured)

/-- R30: Every completion, of a legal word or an ILLEGAL one, answers a next state whose LASTOP is bits [3:0] of the latched
word. -/
def Obligations.CompletionWritesLastop : Prop :=
  ∀ s : State, engineTurn s = true → ∃ t, step s = .next t ∧ t.status.lastop = s.latch.raw.extractLsb' 0 4

/-- 10_state.md R27, 42_membership.md R93: Every completion answers a next state whose RESULT is 1 iff the word was a QUERY
that completed with ERR = OK and every probed bit is 1. -/
def Obligations.CompletionWritesResult : Prop :=
  ∀ s : State, engineTurn s = true → ∃ t, step s = .next t ∧
    (t.status.result = true ↔
      (∃ ie, decode s.latch.raw = .command (.query ie)) ∧ t.status.err = .ok ∧ covers s s.latch.h)

/-- 10_state.md R24, 10_state.md R29, 60_exceptions.md R107: Of the word a read of STATUS returns, bit 0 is BUSY, bit 1
CONFIGURED, bit 2 RESULT, bit 3 OVERRUN, bits [7:4] the code of ERR, which is at most 5, bits [11:8] LASTOP, and bits [31:12]
are 0. -/
def Obligations.StatusWordHasItsFields : Prop :=
  ∀ s : State,
    (readSlot s .status).getLsbD 0 = s.status.busy ∧
    (readSlot s .status).getLsbD 1 = s.status.configured ∧
    (readSlot s .status).getLsbD 2 = s.status.result ∧
    (readSlot s .status).getLsbD 3 = s.status.overrun ∧
    (readSlot s .status).extractLsb' 4 4 = s.status.err.code ∧
    s.status.err.code.toNat ≤ 5 ∧
    (readSlot s .status).extractLsb' 8 4 = s.status.lastop ∧
    (readSlot s .status).extractLsb' 12 20 = 0#20

/-- 10_state.md R25, 70_reset_and_hazards.md R127, 70_reset_and_hazards.md R129: After every step BUSY is 1 iff the step was a
CMD write accepted with BUSY = 0, or BUSY was 1 and the step was neither a completion nor a reset. -/
def Obligations.BusyFromAcceptanceToCompletion : Prop :=
  ∀ s t : State, step s = .next t →
    (t.status.busy = true ↔
      (s.status.busy = false ∧ ∃ addr width v rest, s.inputs = .write addr width v :: rest ∧
        busTarget s.cfg.base addr width = .slot .cmd) ∨
      (s.status.busy = true ∧ engineTurn s = false ∧ ∀ rest, s.inputs ≠ .reset :: rest))

/-- 10_state.md R26, 40_configure.md R72: After every step CONFIGURED is 1 iff the step was not a reset and either it was 1
before or the step completed a CONFIG with valid operands. -/
def Obligations.ConfiguredOnlyByAValidConfig : Prop :=
  ∀ s t : State, step s = .next t →
    (t.status.configured = true ↔
      (engineTurn s = true ∧ decode s.latch.raw = .command .config ∧
        configValid s.latch.maxi.toNat s.latch.bpi.toNat s.cfg.capBits = true) ∨
      (s.status.configured = true ∧ ¬(engineTurn s = false ∧ ∃ rest, s.inputs = .reset :: rest)))

/-- R28: After every step OVERRUN is: as before for a completion; 0 after a reset; 1 after a CMD write while BUSY = 1, as
before after one while BUSY = 0; cleared by a write of STATUS with bit 3 set; and as before after any other input or none. -/
def Obligations.OverrunIsStickyUntilCleared : Prop :=
  ∀ s t : State, step s = .next t →
    t.status.overrun =
      match engineTurn s, s.inputs with
      | false, .reset :: _ => false
      | false, .write addr width v :: _ =>
        if busTarget s.cfg.base addr width = .slot .cmd then s.status.overrun || s.status.busy
        else if busTarget s.cfg.base addr width = .slot .status then s.status.overrun && !v.getLsbD 3
        else s.status.overrun
      | _, _ => s.status.overrun

/-- R32: In the host's turn, BUSY or not, a 32-bit write of v at offset 0x0C clears OVERRUN when v[3] = 1, leaves it when v[3]
= 0, and changes nothing else (but for the queue and the latency unit it uses, the model's own). -/
def Obligations.StatusWriteClearsOnlyOverrun : Prop :=
  ∀ (s : State) (v : Word) (rest : List Input), engineTurn s = false →
    s.inputs = .write (s.cfg.base + 0x0C) .w32 (v.setWidth 64) :: rest →
    step s = .next { s with
      inputs := rest
      wait := s.wait - 1
      status := { s.status with overrun := if v.getLsbD 3 then false else s.status.overrun } }

/-- R127: With BUSY = 0 a 32-bit write of v at offset 0x08, legal word or not, puts v and the values of MAX_ITEMS,
BITS_PER_ITEM, HASH_HI:HASH_LO and WORD_INDEX into the latch, sets BUSY, and changes nothing else but the model's own queue
and latency fields. -/
def Obligations.AcceptanceSamplesTheOperands : Prop :=
  ∀ (s : State) (v : Word) (rest : List Input), s.status.busy = false →
    s.inputs = .write (s.cfg.base + 0x08) .w32 (v.setWidth 64) :: rest →
    ∃ t, step s = .next t ∧
      t = { s with
        inputs := rest
        wait := t.wait
        draws := t.draws
        status := { s.status with busy := true }
        latch := { raw := v, maxi := s.maxItems, bpi := s.bitsPerItem, h := s.hashHi ++ s.hashLo, widx := s.wordIndex } }

/-- R128: In the host's turn with BUSY = 1, a 32-bit write at offset 0x08 sets OVERRUN and changes nothing else: the latch and
the command in flight stay, so the word is never executed and commands never overlap. -/
def Obligations.BusyDropsCommandWrites : Prop :=
  ∀ (s : State) (v : Word) (rest : List Input), s.status.busy = true → engineTurn s = false →
    s.inputs = .write (s.cfg.base + 0x08) .w32 (v.setWidth 64) :: rest →
    step s = .next { s with
      inputs := rest
      wait := s.wait - 1
      status := { s.status with overrun := true } }

/-- 10_state.md R20, 10_state.md R21, 10_state.md R22, 10_state.md R23, 20_memory.md R51: In the host's turn a 32-bit read of
each of the sixteen offsets gives the host the value of the register map (ID the constant, CAPACITY the parameter, CMD and the
reserved slots 0) and changes nothing of the BFE. -/
def Obligations.RegisterReadsReturnTheMap : Prop :=
  ∀ (s : State) (off : Nat) (v : Word) (rest : List Input), engineTurn s = false →
    s.inputs = .read (s.cfg.base + off) .w32 :: rest →
    (off, v) ∈ [(0x00, 0x424C4D46#32), (0x04, s.cfg.capWords), (0x08, 0#32), (0x0C, s.status.word),
      (0x10, s.maxItems), (0x14, s.bitsPerItem), (0x18, s.hashLo), (0x1C, s.hashHi), (0x20, s.wordIndex),
      (0x24, s.dataLo), (0x28, s.dataHi), (0x2C, s.mLo), (0x30, s.mHi), (0x34, s.k), (0x38, 0#32), (0x3C, 0#32)] →
    step s = .next { s with inputs := rest, wait := s.wait - 1, seen := v :: s.seen }

/-- R40, R41: In the host's turn a write at a read-only or reserved offset changes nothing; a write of STATUS leaves every
field but OVERRUN; a read at any offset of the window changes nothing of the BFE, and at a reserved offset returns 0. -/
def Obligations.ReadOnlyRegistersIgnoreWrites : Prop :=
  ∀ (s : State) (off : Nat) (rest : List Input), engineTurn s = false →
    (∀ v : Word64, off ∈ [0x00, 0x04, 0x24, 0x28, 0x2C, 0x30, 0x34, 0x38, 0x3C] →
      s.inputs = .write (s.cfg.base + off) .w32 v :: rest →
      step s = .next { s with inputs := rest, wait := s.wait - 1 }) ∧
    (∀ v : Word64, s.inputs = .write (s.cfg.base + 0x0C) .w32 v :: rest → ∃ t, step s = .next t ∧
      t = { s with
        inputs := rest
        wait := s.wait - 1
        status := { s.status with overrun := t.status.overrun } }) ∧
    (off < 64 → off % 4 = 0 → s.inputs = .read (s.cfg.base + off) .w32 :: rest → ∃ t v, step s = .next t ∧
      t = { s with inputs := rest, wait := s.wait - 1, seen := v :: s.seen } ∧
      (off = 0x38 ∨ off = 0x3C → v = 0#32))

/-- 10_state.md R33, 10_state.md R34, 10_state.md R35, 10_state.md R36, 70_reset_and_hazards.md R131: In the host's turn, BUSY
or not, a 32-bit write of v at 0x10, 0x14, 0x18, 0x1C or 0x20 stores v in MAX_ITEMS, BITS_PER_ITEM, HASH_LO, HASH_HI or
WORD_INDEX and changes nothing else: the latch of a command in flight does not change. -/
def Obligations.OperandRegistersStoreTheValue : Prop :=
  ∀ (s : State) (v : Word) (rest : List Input), engineTurn s = false →
    (s.inputs = .write (s.cfg.base + 0x10) .w32 (v.setWidth 64) :: rest →
      step s = .next { s with inputs := rest, wait := s.wait - 1, maxItems := v }) ∧
    (s.inputs = .write (s.cfg.base + 0x14) .w32 (v.setWidth 64) :: rest →
      step s = .next { s with inputs := rest, wait := s.wait - 1, bitsPerItem := v }) ∧
    (s.inputs = .write (s.cfg.base + 0x18) .w32 (v.setWidth 64) :: rest →
      step s = .next { s with inputs := rest, wait := s.wait - 1, hashLo := v }) ∧
    (s.inputs = .write (s.cfg.base + 0x1C) .w32 (v.setWidth 64) :: rest →
      step s = .next { s with inputs := rest, wait := s.wait - 1, hashHi := v }) ∧
    (s.inputs = .write (s.cfg.base + 0x20) .w32 (v.setWidth 64) :: rest →
      step s = .next { s with inputs := rest, wait := s.wait - 1, wordIndex := v })

/-- R48: In the host's turn a read or write that starts at an offset of the window answers a next state if it is 32 bits wide
at a multiple of 4, and otherwise stops with the host-protocol fault. -/
def Obligations.WrongWidthOrAlignmentFaults : Prop :=
  ∀ (s : State) (off : Nat) (width : Width) (x : Input) (rest : List Input), engineTurn s = false → off < 64 →
    s.inputs = x :: rest →
    (x = .read (s.cfg.base + off) width ∨ ∃ v, x = .write (s.cfg.base + off) width v) →
    (width = .w32 ∧ off % 4 = 0 → ∃ t, step s = .next t) ∧
    (¬(width = .w32 ∧ off % 4 = 0) → step s = .fault .hostProtocolViolation)

/-- 20_memory.md R49, 20_memory.md R47: In the host's turn an access of any width none of whose bytes lies in the window
leaves the BFE as it is; that nothing is recorded of what such a read returns is the model's choice (log 11). -/
def Obligations.AccessOutsideTheWindowIsIgnored : Prop :=
  ∀ (s : State) (addr : Nat) (width : Width) (x : Input) (rest : List Input), engineTurn s = false →
    s.inputs = x :: rest → (x = .read addr width ∨ ∃ v, x = .write addr width v) →
    (addr + width.bytes ≤ s.cfg.base ∨ s.cfg.base + 64 ≤ addr) →
    step s = .next { s with inputs := rest, wait := s.wait - 1 }

/-- R31: A step that is neither a completion nor a reset leaves RESULT, ERR, LASTOP, CONFIGURED, DATA, M, K and the bit array
as they are, and while BUSY = 1 the latch too; a completion clears BUSY. -/
def Obligations.OldResultsShowUntilCompletion : Prop :=
  ∀ s t : State, step s = .next t →
    (engineTurn s = false → (∀ rest, s.inputs ≠ .reset :: rest) →
      t.status.result = s.status.result ∧ t.status.err = s.status.err ∧ t.status.lastop = s.status.lastop ∧
      t.status.configured = s.status.configured ∧ t.dataLo = s.dataLo ∧ t.dataHi = s.dataHi ∧
      t.mLo = s.mLo ∧ t.mHi = s.mHi ∧ t.k = s.k ∧ t.array = s.array ∧
      (s.status.busy = true → t.latch = s.latch)) ∧
    (engineTurn s = true → t.status.busy = false)

/-- R122: For every choice of the parameters, in the machine after its first reset and in every state a reset input leads to,
ID reads 0x424C4D46, CAPACITY the parameter CAP_WORDS, every other slot 0 (STATUS included, so no command is in flight); a
reset keeps the parameters. -/
def Obligations.ResetGivesEveryRegisterItsValue : Prop :=
  (∀ cfg : Params, slotList.map (readSlot (State.powerOn cfg)) =
    [0x424C4D46#32, cfg.capWords, 0, 0, 0, 0, 0, 0, 0, 0, 0, 0, 0, 0, 0, 0] ∧
    (State.powerOn cfg).status.busy = false) ∧
  (∀ (s : State) (rest : List Input), engineTurn s = false → s.inputs = .reset :: rest →
    ∃ t, step s = .next t ∧ t.cfg = s.cfg ∧ t.status.busy = false ∧
      slotList.map (readSlot t) =
        [0x424C4D46#32, s.cfg.capWords, 0, 0, 0, 0, 0, 0, 0, 0, 0, 0, 0, 0, 0, 0])

/-- 70_reset_and_hazards.md R124, 70_reset_and_hazards.md R122, 70_reset_and_hazards.md R123: In the host's turn with BUSY = 1
a reset input leads to the state of a freshly reset machine, whatever the command was, with new unspecified array contents
(the next generation); the zeros of the empty latch, the model's own fields, and that the host's future and past stay are the
model's choice (log 2, log 4, log 6, log 9). -/
def Obligations.ResetAbandonsTheCommand : Prop :=
  ∀ (s : State) (rest : List Input), s.status.busy = true → engineTurn s = false → s.inputs = .reset :: rest →
    step s = .next { State.powerOn s.cfg with
      array := { gen := s.array.gen + 1, cells := [] }
      inputs := rest
      draws := s.draws
      seen := s.seen }

/-- 10_state.md R43, 70_reset_and_hazards.md R122: The invariant holds at State.reset, and after the first reset of a machine
with any well-formed parameters. -/
def Obligations.ResetMeetsTheInvariant : Prop :=
  Inv State.reset ∧ ∀ cfg : Params, cfg.wellFormed = true → Inv (State.powerOn cfg)

/-- 10_state.md R43, 10_state.md R42: From every state that meets the invariant a step that answers a next state leads to one
that does: the parameters stay legal; the array keeps its canonical form inside CAP_WORDS; without a filter M_LO = M_HI = K =
0; with one, m = n * b and k = KTAB[b] for a valid n and b, every used word is written, and every bit of a used word from m on
is 0. -/
def Obligations.EveryStepKeepsTheInvariant : Prop :=
  ∀ s t : State, Inv s → step s = .next t → Inv t

/-- 10_state.md R38, 10_state.md R39, 10_state.md R43, 40_configure.md R74: In every state that meets the invariant M_HI[31:6]
is 0; with a filter 1 <= m <= CAP_BITS and 1 <= k <= 177, and without one m = 0 and k = 0. -/
def Obligations.InvariantBoundsMAndK : Prop :=
  ∀ s : State, Inv s →
    s.mHi.toNat < 2 ^ 6 ∧
    (s.status.configured = true → 1 ≤ s.m ∧ s.m ≤ s.cfg.capBits ∧ 1 ≤ s.k.toNat ∧ s.k.toNat ≤ 177) ∧
    (s.status.configured = false → s.m = 0 ∧ s.k.toNat = 0)

/-- R95: On a configured machine two INSERTs of the same hash in a row leave every word of A as one does; and an INSERT of a
hash all of whose probed bits are already 1 leaves every word of A as it is. -/
def Obligations.InsertIsIdempotent : Prop :=
  ∀ s : State, s.status.configured = true → 1 ≤ s.m →
    (∃ t u, exec (.insert false) s = .next t ∧ exec (.insert false) t = .next u ∧
      t.latch.h = s.latch.h ∧ ∀ w, u.array.readWord w = t.array.readWord w) ∧
    ((∀ p, p ∈ probes s.latch.h s.m s.k.toNat → s.array.bitRead p = true) →
      ∃ t, exec (.insert false) s = .next t ∧ ∀ w, t.array.readWord w = s.array.readWord w)

/-- R96: A step that does not begin a new lifetime keeps m, k and CONFIGURED and clears no bit of the array; hence a hash that
QUERY answers with 1 is answered with 1 in every later state of the same lifetime. -/
def Obligations.BitsOnlyGrowInALifetime : Prop :=
  (∀ s t : State, lifetimeStep s t →
    t.mLo = s.mLo ∧ t.mHi = s.mHi ∧ t.k = s.k ∧ t.status.configured = s.status.configured ∧
    ∀ p, s.array.bitRead p = true → t.array.bitRead p = true) ∧
  (∀ (s t : State) (h : Word64), Answers s h true → sameLifetime s t → Answers t h true)

/-- R97: If the engine completes an INSERT of h with ERR = OK, and later in the same filter lifetime completes a QUERY of the
same h with ERR = OK, that QUERY has RESULT = 1, whatever host inputs, commands and latencies lie between. -/
def Obligations.NoFalseNegatives : Prop :=
  ∀ (s t u v : State) (ie ie' : Bool),
    engineTurn s = true → decode s.latch.raw = .command (.insert ie) → step s = .next t → t.status.err = .ok →
    sameLifetime t u →
    engineTurn u = true → decode u.latch.raw = .command (.query ie') → u.latch.h = s.latch.h →
    step u = .next v → v.status.err = .ok →
    v.status.result = true

/-- 42_membership.md R98, 95_test_vectors.md 2.5: With m = 64 and k = 1, an INSERT of 0x0000000500000000 into a zeroed filter
sets bit 5 only, and a QUERY of 0x00000045DEADBEEF then answers 1. -/
def Obligations.FalsePositivesExist : Prop :=
  ∀ s : State, s.status.configured = true → s.m = 64 → s.k = 1#32 → s.array.readWord 0 = 0 →
    s.latch.h = 0x0000000500000000#64 →
    ∃ t, exec (.insert false) s = .next t ∧ t.array.readWord 0 = 0x20#64 ∧ Answers t 0x00000045DEADBEEF#64 true

/-- R99: On a configured machine two sequences of INSERT, QUERY and READW commands (with any latched operands) whose
successful INSERTs carry the same hashes, in any order, both run to the end and leave every word of A the same. -/
def Obligations.ArrayIndependentOfInsertOrder : Prop :=
  ∀ (s : State) (cs ds : List (Instr × Latch)), s.status.configured = true →
    (∀ c, c ∈ cs ++ ds → c.1 ≠ .config) → (insertedHashes cs).Perm (insertedHashes ds) →
    ∃ t u, runCommands cs s = .next t ∧ runCommands ds s = .next u ∧
      ∀ w, t.array.readWord w = u.array.readWord w

/-- R88: For every number of lanes from 1 on, an INSERT leaves each word as setting p_0, ..., p_(k-1) one after the other
does, which is the word OR SetMask(w), whose bit q is set iff some p_i = 64 w + q; and a QUERY answers the AND of the probed
bits. -/
def Obligations.LanesActLikeSequentialProbes : Prop :=
  ∀ (s : State) (lanes : Nat), 1 ≤ lanes → s.status.configured = true → 1 ≤ s.m →
    (∃ t, exec (.insert false) { s with cfg := { s.cfg with kLanes := lanes } } = .next t ∧
      (∀ w, t.array.readWord w =
        ((probes s.latch.h s.m s.k.toNat).foldl BitArray.bitSet s.array).readWord w) ∧
      (∀ w, t.array.readWord w = s.array.readWord w ||| setMask (probes s.latch.h s.m s.k.toNat) w) ∧
      (∀ w q, q < 64 → ((setMask (probes s.latch.h s.m s.k.toNat) w).getLsbD q = true ↔
        ∃ i, i < s.k.toNat ∧ probeIndex s.latch.h s.m i = 64 * w + q))) ∧
    (∃ t, exec (.query false) { s with cfg := { s.cfg with kLanes := lanes } } = .next t ∧
      (t.status.result = true ↔ ∀ i, i < s.k.toNat → s.array.bitRead (probeIndex s.latch.h s.m i) = true))

/-- 42_membership.md R100, 70_reset_and_hazards.md R123, 70_reset_and_hazards.md R136, 10_state.md R42: Two machines with the
same CAP_WORDS, registers, latch and used words, whatever their K_LANES, latencies and unspecified or stale words, run every
sequence of commands to the end and still agree on all of these. So results do not depend on K_LANES or latency, and the
contents of the array after reset are not observable. -/
def Obligations.EnginesThatLookAlikeStayAlike : Prop :=
  ∀ (cs : List (Instr × Latch)) (s s' : State), SameVisible s s' → 1 ≤ s.cfg.kLanes → 1 ≤ s'.cfg.kLanes →
    (s.status.configured = true → 1 ≤ s.m) →
    ∃ t t', runCommands cs s = .next t ∧ runCommands cs s' = .next t' ∧ SameVisible t t' ∧
      slotList.map (readSlot t) = slotList.map (readSlot t')

/-- 41_probe.md R87: For every number of lanes from 1 on, a command on k probes has ceil(k / K_LANES) beats; in beat t lane j
handles probe t * K_LANES + j where that is below k, no beat has more probes than lanes, and the beats one after the other are
the probes in order. -/
def Obligations.BeatsHoldTheProbesInOrder : Prop :=
  ∀ (h : Word64) (m k lanes : Nat), 1 ≤ lanes →
    (beats lanes (probes h m k)).length = (k + lanes - 1) / lanes ∧
    (∀ t j, j < lanes → t * lanes + j < k → ∃ b, (beats lanes (probes h m k))[t]? = some b ∧ b.length ≤ lanes ∧
      b[j]? = some (probeIndex h m (t * lanes + j))) ∧
    (beats lanes (probes h m k)).flatten = probes h m k

/-- R84: For every hash, every m >= 1 and every k, the sequence p_0 = h1 mod m, then adding s = h2 mod m and subtracting m
where the sum reaches m, is the probe sequence; every sum it forms is below 2 m, which is below 2^39 for m < 2^38. -/
def Obligations.IncrementalProbesAgree : Prop :=
  ∀ (h : Word64) (m k : Nat), 1 ≤ m →
    probesIncremental h m k = probes h m k ∧
    (∀ i, probeIndex h m (i + 1) =
      if probeIndex h m i + hashLower h % m < m then probeIndex h m i + hashLower h % m
      else probeIndex h m i + hashLower h % m - m) ∧
    (∀ i, probeIndex h m i + hashLower h % m < 2 * m) ∧
    (m < 2 ^ 38 → 2 * m < 2 ^ 39)

/-- 41_probe.md R82, 41_probe.md R83, 20_memory.md R54: For m >= 1 every probe is below m and its word is below ceil(m/64);
for i < 177 the sum h1 + i * h2 is at most 760209211215, below 2^40. -/
def Obligations.ProbesLieInTheUsedWords : Prop :=
  ∀ (h : Word64) (m i : Nat), 1 ≤ m →
    probeIndex h m i < m ∧ probeIndex h m i / 64 < (m + 63) / 64 ∧
    (i < 177 → hashUpper h + i * hashLower h ≤ 760209211215 ∧ 760209211215 < 2 ^ 40)

/-- 41_probe.md R85: m = 1 gives 0; h2 mod m = 0 gives h1 mod m for every i; two probes are equal exactly when their numbers
agree modulo m / gcd(h2 mod m, m); for m = 2^j the probe is the low j bits of the sum; k = 1 gives the one probe h1 mod m. -/
def Obligations.ProbeSequenceCornerCases : Prop :=
  ∀ (h : Word64) (m : Nat), 1 ≤ m →
    (∀ i, probeIndex h 1 i = 0) ∧
    (hashLower h % m = 0 → ∀ i, probeIndex h m i = hashUpper h % m) ∧
    (∀ i j, probeIndex h m i = probeIndex h m j ↔ i ≡ j [MOD m / Nat.gcd (hashLower h % m) m]) ∧
    (∀ j, m = 2 ^ j → ∀ i q, (probeIndex h m i).testBit q =
      (decide (q < j) && (hashUpper h + i * hashLower h).testBit q)) ∧
    probes h m 1 = [hashUpper h % m]

/-- 43_readback.md R105, 20_memory.md R52: On a configured machine, for every filter bit p < m, a READW of word p div 64
completes with ERR = OK and bit p mod 64 of DATA_HI:DATA_LO is filter bit p. -/
def Obligations.ReadbackShowsEveryFilterBit : Prop :=
  ∀ (s : State) (p : Nat), s.status.configured = true → p < s.m → s.latch.widx.toNat = p / 64 →
    ∃ t, exec .readw s = .next t ∧ t.status.err = .ok ∧
      (t.dataHi ++ t.dataLo : BitVec 64).getLsbD (p % 64) = s.array.bitRead p

/-- 40_configure.md R79, 42_membership.md R93: A CONFIG that completes with ERR = OK, also on a machine that already had a
filter, leaves a filter on which a QUERY of every hash completes with ERR = OK and RESULT = 0: nothing of the old filter
remains. -/
def Obligations.FreshFilterAnswersNo : Prop :=
  ∀ s t : State, exec .config s = .next t → t.status.err = .ok → ∀ h : Word64, Answers t h false

/-- 70_reset_and_hazards.md R130, 70_reset_and_hazards.md R124: From every state with a command in flight whose host keeps to
the interface contract, a state with BUSY = 0 is reached: by the completion, or by a reset that abandons the command. That it
takes at most the drawn latency plus one steps is the model's choice (log 4): R130 says finite and gives no bound. -/
def Obligations.AcceptedCommandsComplete : Prop :=
  ∀ s : State, s.status.busy = true → hostAllowed s = true →
    ∃ n t, n ≤ s.wait + 1 ∧ Sys2Proof.core.run n s = .next t ∧ t.status.busy = false

/-- 30_encoding.md R71, 10_state.md R41: In the host's turn a POLL reads STATUS; with BUSY = 1 it stays ahead of the rest of
the program, with BUSY = 0 it is done; nothing of the BFE changes. -/
def Obligations.PollRepeatsWhileBusy : Prop :=
  ∀ (s : State) (rest : List Input), engineTurn s = false → s.inputs = .poll :: rest →
    step s = .next { s with
      inputs := if s.status.busy then .poll :: rest else rest
      wait := s.wait - 1
      seen := s.status.word :: s.seen }

/-- 20_memory.md R57, 20_memory.md R58, 30_encoding.md R71, 70_reset_and_hazards.md R132: From an idle machine whose host
writes v to CMD and then polls, a state is reached in which the host goes on with the rest of its program, BUSY is 0, the last
value seen is STATUS, and everything but the model's own fields is what completing v with the operands of the time of the
write gives; so the free latency decides nothing for a host that polls. -/
def Obligations.CommandWriteThenPollRunsTheCommand : Prop :=
  ∀ (s : State) (v : Word) (rest : List Input), s.status.busy = false →
    s.inputs = HostProgram.wr s.cfg.base .cmd v :: .poll :: rest →
    ∃ n t u, Sys2Proof.core.run n s = .next t ∧
      engineMove { s with
        inputs := rest
        status := { s.status with busy := true }
        latch := { raw := v, maxi := s.maxItems, bpi := s.bitsPerItem, h := s.hashHi ++ s.hashLo, widx := s.wordIndex } } =
        .next u ∧
      t = { u with wait := t.wait, draws := t.draws, seen := t.seen } ∧
      t.inputs = rest ∧ t.status.busy = false ∧ t.seen.head? = some t.status.word

/-- 60_exceptions.md R121, 70_reset_and_hazards.md R125: With BUSY = 0 and no host input a step changes nothing. -/
def Obligations.IdleMachineKeepsItsState : Prop :=
  ∀ s : State, s.status.busy = false → s.inputs = [] → step s = .next s

/-- 60_exceptions.md R112, 20_memory.md R48: From every state whose remaining inputs keep to the interface contract a step
answers a next state whose remaining inputs do too; and whatever the host does, a step never refuses, and faults only with the
host-protocol fault. -/
def Obligations.HostInContractNeverStops : Prop :=
  (∀ s : State, hostAllowed s = true → ∃ t, step s = .next t ∧ hostAllowed t = true) ∧
  (∀ s : State, (∃ t, step s = .next t) ∨ step s = .fault .hostProtocolViolation)
end

