-- ==== Sys2Proof/Laws/BitArray.lean ====
section
/-! SUPPORT. The bit array: what a read gives after each primitive, and that each primitive keeps the canonical form. -/

namespace Sys2Proof.Machine

theorem lookupCell_insertCell (cells : List (Nat × Word64)) (w x : Nat) (v : Word64) :
    lookupCell (insertCell cells w v) x = if x = w then some v else lookupCell cells x := by
  induction cells with
  | nil => simp [insertCell, lookupCell, eq_comm]
  | cons c rest ih =>
    obtain ⟨a, u⟩ := c
    simp only [insertCell]
    split_ifs <;> simp only [lookupCell, ih] <;> split_ifs <;> first | rfl | omega

theorem cellsRising_mono {lo lo' : Nat} {cells : List (Nat × Word64)} (h : lo' ≤ lo)
    (hc : cellsRising lo cells = true) : cellsRising lo' cells = true := by
  cases cells with
  | nil => rfl
  | cons c rest =>
    simp only [cellsRising, Bool.and_eq_true, decide_eq_true_eq] at hc ⊢
    exact ⟨h.trans hc.1, hc.2⟩

theorem cellsRising_insertCell {lo w : Nat} {cells : List (Nat × Word64)} (v : Word64) (h : lo ≤ w)
    (hc : cellsRising lo cells = true) : cellsRising lo (insertCell cells w v) = true := by
  induction cells generalizing lo with
  | nil => simpa [insertCell, cellsRising] using h
  | cons c rest ih =>
    obtain ⟨a, u⟩ := c
    simp only [cellsRising, Bool.and_eq_true, decide_eq_true_eq] at hc
    simp only [insertCell]
    split_ifs with h1 h2
    · simp only [cellsRising, Bool.and_eq_true, decide_eq_true_eq]
      exact ⟨h, h1, hc.2⟩
    · subst h2
      simp only [cellsRising, Bool.and_eq_true, decide_eq_true_eq]
      exact ⟨h, hc.2⟩
    · simp only [cellsRising, Bool.and_eq_true, decide_eq_true_eq]
      exact ⟨hc.1, ih (by omega) hc.2⟩

/-- In a rising list no index below the bound is listed. -/
theorem lookupCell_below {lo x : Nat} {cells : List (Nat × Word64)} (hc : cellsRising lo cells = true)
    (h : x < lo) : lookupCell cells x = none := by
  induction cells generalizing lo with
  | nil => rfl
  | cons c rest ih =>
    obtain ⟨a, u⟩ := c
    simp only [cellsRising, Bool.and_eq_true, decide_eq_true_eq] at hc
    simp only [lookupCell, if_neg (show a ≠ x by omega)]
    exact ih hc.2 (by omega)

theorem lookupCell_filter (cells : List (Nat × Word64)) (nw x : Nat) :
    lookupCell (cells.filter fun c => decide (nw ≤ c.1)) x = if nw ≤ x then lookupCell cells x else none := by
  induction cells with
  | nil => simp [lookupCell]
  | cons c rest ih =>
    obtain ⟨a, u⟩ := c
    simp only [List.filter_cons]
    by_cases ha : nw ≤ a
    · simp only [ha, decide_true, if_true, lookupCell, ih]
      split_ifs <;> first | rfl | omega
    · simp only [ha, decide_false, Bool.false_eq_true, if_false, lookupCell, ih]
      split_ifs <;> first | rfl | omega

theorem lookupCell_append_zeros (ws : List Nat) (cells : List (Nat × Word64)) (x : Nat) :
    lookupCell (ws.map (fun w => (w, (0 : Word64))) ++ cells) x =
      if x ∈ ws then some 0 else lookupCell cells x := by
  induction ws with
  | nil => simp
  | cons a ws ih =>
    simp only [List.map_cons, List.cons_append, lookupCell, ih, List.mem_cons]
    by_cases hx : a = x
    · simp [hx]
    · simp [hx, Ne.symm hx]

theorem cellsRising_filter {lo nw : Nat} {cells : List (Nat × Word64)} (hc : cellsRising lo cells = true) :
    cellsRising (max lo nw) (cells.filter fun c => decide (nw ≤ c.1)) = true := by
  induction cells generalizing lo with
  | nil => rfl
  | cons c rest ih =>
    obtain ⟨a, u⟩ := c
    simp only [cellsRising, Bool.and_eq_true, decide_eq_true_eq] at hc
    simp only [List.filter_cons]
    by_cases ha : nw ≤ a
    · simp only [ha, decide_true, if_true, cellsRising, Bool.and_eq_true, decide_eq_true_eq]
      exact ⟨by omega, cellsRising_mono (by omega) (ih hc.2)⟩
    · simp only [ha, decide_false, Bool.false_eq_true, if_false]
      exact cellsRising_mono (by omega) (ih hc.2)

theorem cellsRising_append_zeros (lo n : Nat) (cells : List (Nat × Word64))
    (hc : cellsRising (lo + n) cells = true) :
    cellsRising lo ((List.range' lo n).map (fun w => (w, (0 : Word64))) ++ cells) = true := by
  induction n generalizing lo with
  | zero => simpa using hc
  | succ n ih =>
    simp only [List.range'_succ, List.map_cons, List.cons_append, cellsRising, le_refl, decide_true, Bool.true_and]
    exact ih (lo + 1) (by rwa [show lo + 1 + n = lo + (n + 1) by omega])

namespace BitArray

@[simp] theorem writeWord_gen (A : BitArray) (w : Nat) (v : Word64) : (A.writeWord w v).gen = A.gen := rfl
@[simp] theorem zeroWords_gen (A : BitArray) (nw : Nat) : (A.zeroWords nw).gen = A.gen := rfl
@[simp] theorem bitSet_gen (A : BitArray) (p : Nat) : (A.bitSet p).gen = A.gen := rfl

theorem readWord_writeWord (A : BitArray) (w x : Nat) (v : Word64) :
    (A.writeWord w v).readWord x = if x = w then v else A.readWord x := by
  simp only [readWord, writeWord, lookupCell_insertCell]
  split_ifs <;> rfl

theorem listed_writeWord (A : BitArray) (w x : Nat) (v : Word64) :
    (A.writeWord w v).listed x = (decide (x = w) || A.listed x) := by
  simp only [listed, writeWord, lookupCell_insertCell]
  split_ifs with h <;> simp [h]

theorem readWord_zeroWords (A : BitArray) (nw x : Nat) :
    (A.zeroWords nw).readWord x = if x < nw then 0 else A.readWord x := by
  simp only [readWord, zeroWords, lookupCell_append_zeros, lookupCell_filter, List.mem_range]
  by_cases h : x < nw
  · simp [h]
  · simp [h, Nat.le_of_not_lt h]

theorem listed_zeroWords (A : BitArray) (nw x : Nat) :
    (A.zeroWords nw).listed x = (decide (x < nw) || A.listed x) := by
  simp only [listed, zeroWords, lookupCell_append_zeros, lookupCell_filter, List.mem_range]
  by_cases h : x < nw
  · simp [h]
  · simp [h, Nat.le_of_not_lt h]

theorem wf_writeWord {A : BitArray} (w : Nat) (v : Word64) (h : A.wf = true) : (A.writeWord w v).wf = true :=
  cellsRising_insertCell v (Nat.zero_le w) h

theorem wf_bitSet {A : BitArray} (p : Nat) (h : A.wf = true) : (A.bitSet p).wf = true := wf_writeWord _ _ h

theorem wf_zeroWords {A : BitArray} (nw : Nat) (h : A.wf = true) : (A.zeroWords nw).wf = true := by
  simp only [wf, zeroWords, List.range_eq_range']
  exact cellsRising_append_zeros 0 nw _ (by simpa using cellsRising_filter (nw := nw) h)

theorem wf_empty (gen : Nat) : (BitArray.mk gen []).wf = true := rfl

/-- R53: `BitSet(p)` sets bit p and leaves every other bit. -/
theorem bitRead_bitSet (A : BitArray) (p x : Nat) : (A.bitSet p).bitRead x = (decide (x = p) || A.bitRead x) := by
  have h64 : p % 64 < 64 := Nat.mod_lt _ (by decide)
  by_cases hw : x / 64 = p / 64
  · have hx : (x = p) ↔ (p % 64 = x % 64) := by omega
    simp [bitRead, bitSet, readWord_writeWord, hw, h64, hx, Bool.or_comm]
  · have hx : x ≠ p := fun h => hw (by rw [h])
    simp [bitRead, bitSet, readWord_writeWord, hw, hx]

/-- Two arrays with the same words have the same bits. -/
theorem bitRead_congr {A B : BitArray} {p : Nat} (h : A.readWord (p / 64) = B.readWord (p / 64)) :
    A.bitRead p = B.bitRead p := by
  simp only [bitRead, h]

/-- Bit q of word w is filter bit 64 w + q (R52). -/
theorem readWord_getLsbD (A : BitArray) (w q : Nat) (hq : q < 64) :
    (A.readWord w).getLsbD q = A.bitRead (64 * w + q) := by
  simp only [bitRead, show (64 * w + q) / 64 = w by omega, show (64 * w + q) % 64 = q by omega]

end BitArray
end Sys2Proof.Machine
end

