-- ==== Sys2Proof/Laws/State.lean ====
section
/-! SUPPORT. One lemma per field per named update of STATUS and of the state, each true by rfl: no later proof unfolds a record
update. -/

namespace Sys2Proof.Machine

@[simp] theorem Status.completed_busy (st : Status) (op : BitVec 4) (e : ErrCode) (r : Bool) :
    (st.completed op e r).busy = false := rfl
@[simp] theorem Status.completed_configured (st : Status) (op : BitVec 4) (e : ErrCode) (r : Bool) :
    (st.completed op e r).configured = st.configured := rfl
@[simp] theorem Status.completed_result (st : Status) (op : BitVec 4) (e : ErrCode) (r : Bool) :
    (st.completed op e r).result = r := rfl
@[simp] theorem Status.completed_overrun (st : Status) (op : BitVec 4) (e : ErrCode) (r : Bool) :
    (st.completed op e r).overrun = st.overrun := rfl
@[simp] theorem Status.completed_err (st : Status) (op : BitVec 4) (e : ErrCode) (r : Bool) :
    (st.completed op e r).err = e := rfl
@[simp] theorem Status.completed_lastop (st : Status) (op : BitVec 4) (e : ErrCode) (r : Bool) :
    (st.completed op e r).lastop = op := rfl

@[simp] theorem Status.accepted_busy (st : Status) :
    (st.accepted).busy = true := rfl
@[simp] theorem Status.accepted_configured (st : Status) :
    (st.accepted).configured = st.configured := rfl
@[simp] theorem Status.accepted_result (st : Status) :
    (st.accepted).result = st.result := rfl
@[simp] theorem Status.accepted_overrun (st : Status) :
    (st.accepted).overrun = st.overrun := rfl
@[simp] theorem Status.accepted_err (st : Status) :
    (st.accepted).err = st.err := rfl
@[simp] theorem Status.accepted_lastop (st : Status) :
    (st.accepted).lastop = st.lastop := rfl

@[simp] theorem Status.dropped_busy (st : Status) :
    (st.dropped).busy = st.busy := rfl
@[simp] theorem Status.dropped_configured (st : Status) :
    (st.dropped).configured = st.configured := rfl
@[simp] theorem Status.dropped_result (st : Status) :
    (st.dropped).result = st.result := rfl
@[simp] theorem Status.dropped_overrun (st : Status) :
    (st.dropped).overrun = true := rfl
@[simp] theorem Status.dropped_err (st : Status) :
    (st.dropped).err = st.err := rfl
@[simp] theorem Status.dropped_lastop (st : Status) :
    (st.dropped).lastop = st.lastop := rfl

@[simp] theorem Status.written_busy (st : Status) (v : Word) :
    (st.written v).busy = st.busy := rfl
@[simp] theorem Status.written_configured (st : Status) (v : Word) :
    (st.written v).configured = st.configured := rfl
@[simp] theorem Status.written_result (st : Status) (v : Word) :
    (st.written v).result = st.result := rfl
@[simp] theorem Status.written_overrun (st : Status) (v : Word) :
    (st.written v).overrun = (st.overrun && !v.getLsbD 3) := rfl
@[simp] theorem Status.written_err (st : Status) (v : Word) :
    (st.written v).err = st.err := rfl
@[simp] theorem Status.written_lastop (st : Status) (v : Word) :
    (st.written v).lastop = st.lastop := rfl

@[simp] theorem Status.constructed_busy (st : Status) :
    (st.constructed).busy = st.busy := rfl
@[simp] theorem Status.constructed_configured (st : Status) :
    (st.constructed).configured = true := rfl
@[simp] theorem Status.constructed_result (st : Status) :
    (st.constructed).result = st.result := rfl
@[simp] theorem Status.constructed_overrun (st : Status) :
    (st.constructed).overrun = st.overrun := rfl
@[simp] theorem Status.constructed_err (st : Status) :
    (st.constructed).err = st.err := rfl
@[simp] theorem Status.constructed_lastop (st : Status) :
    (st.constructed).lastop = st.lastop := rfl

@[simp] theorem complete_cfg (s : State) (op : BitVec 4) (err : ErrCode) (result : Bool) :
    (complete s op err result).cfg = s.cfg := rfl
@[simp] theorem complete_status (s : State) (op : BitVec 4) (err : ErrCode) (result : Bool) :
    (complete s op err result).status = s.status.completed op err result := rfl
@[simp] theorem complete_maxItems (s : State) (op : BitVec 4) (err : ErrCode) (result : Bool) :
    (complete s op err result).maxItems = s.maxItems := rfl
@[simp] theorem complete_bitsPerItem (s : State) (op : BitVec 4) (err : ErrCode) (result : Bool) :
    (complete s op err result).bitsPerItem = s.bitsPerItem := rfl
@[simp] theorem complete_hashLo (s : State) (op : BitVec 4) (err : ErrCode) (result : Bool) :
    (complete s op err result).hashLo = s.hashLo := rfl
@[simp] theorem complete_hashHi (s : State) (op : BitVec 4) (err : ErrCode) (result : Bool) :
    (complete s op err result).hashHi = s.hashHi := rfl
@[simp] theorem complete_wordIndex (s : State) (op : BitVec 4) (err : ErrCode) (result : Bool) :
    (complete s op err result).wordIndex = s.wordIndex := rfl
@[simp] theorem complete_dataLo (s : State) (op : BitVec 4) (err : ErrCode) (result : Bool) :
    (complete s op err result).dataLo = s.dataLo := rfl
@[simp] theorem complete_dataHi (s : State) (op : BitVec 4) (err : ErrCode) (result : Bool) :
    (complete s op err result).dataHi = s.dataHi := rfl
@[simp] theorem complete_mLo (s : State) (op : BitVec 4) (err : ErrCode) (result : Bool) :
    (complete s op err result).mLo = s.mLo := rfl
@[simp] theorem complete_mHi (s : State) (op : BitVec 4) (err : ErrCode) (result : Bool) :
    (complete s op err result).mHi = s.mHi := rfl
@[simp] theorem complete_k (s : State) (op : BitVec 4) (err : ErrCode) (result : Bool) :
    (complete s op err result).k = s.k := rfl
@[simp] theorem complete_latch (s : State) (op : BitVec 4) (err : ErrCode) (result : Bool) :
    (complete s op err result).latch = s.latch := rfl
@[simp] theorem complete_array (s : State) (op : BitVec 4) (err : ErrCode) (result : Bool) :
    (complete s op err result).array = s.array := rfl
@[simp] theorem complete_wait (s : State) (op : BitVec 4) (err : ErrCode) (result : Bool) :
    (complete s op err result).wait = s.wait := rfl
@[simp] theorem complete_draws (s : State) (op : BitVec 4) (err : ErrCode) (result : Bool) :
    (complete s op err result).draws = s.draws := rfl
@[simp] theorem complete_inputs (s : State) (op : BitVec 4) (err : ErrCode) (result : Bool) :
    (complete s op err result).inputs = s.inputs := rfl
@[simp] theorem complete_seen (s : State) (op : BitVec 4) (err : ErrCode) (result : Bool) :
    (complete s op err result).seen = s.seen := rfl

@[simp] theorem raiseError_cfg (s : State) (op : BitVec 4) (err : ErrCode) :
    (raiseError s op err).cfg = s.cfg := rfl
@[simp] theorem raiseError_status (s : State) (op : BitVec 4) (err : ErrCode) :
    (raiseError s op err).status = s.status.completed op err false := rfl
@[simp] theorem raiseError_maxItems (s : State) (op : BitVec 4) (err : ErrCode) :
    (raiseError s op err).maxItems = s.maxItems := rfl
@[simp] theorem raiseError_bitsPerItem (s : State) (op : BitVec 4) (err : ErrCode) :
    (raiseError s op err).bitsPerItem = s.bitsPerItem := rfl
@[simp] theorem raiseError_hashLo (s : State) (op : BitVec 4) (err : ErrCode) :
    (raiseError s op err).hashLo = s.hashLo := rfl
@[simp] theorem raiseError_hashHi (s : State) (op : BitVec 4) (err : ErrCode) :
    (raiseError s op err).hashHi = s.hashHi := rfl
@[simp] theorem raiseError_wordIndex (s : State) (op : BitVec 4) (err : ErrCode) :
    (raiseError s op err).wordIndex = s.wordIndex := rfl
@[simp] theorem raiseError_dataLo (s : State) (op : BitVec 4) (err : ErrCode) :
    (raiseError s op err).dataLo = s.dataLo := rfl
@[simp] theorem raiseError_dataHi (s : State) (op : BitVec 4) (err : ErrCode) :
    (raiseError s op err).dataHi = s.dataHi := rfl
@[simp] theorem raiseError_mLo (s : State) (op : BitVec 4) (err : ErrCode) :
    (raiseError s op err).mLo = s.mLo := rfl
@[simp] theorem raiseError_mHi (s : State) (op : BitVec 4) (err : ErrCode) :
    (raiseError s op err).mHi = s.mHi := rfl
@[simp] theorem raiseError_k (s : State) (op : BitVec 4) (err : ErrCode) :
    (raiseError s op err).k = s.k := rfl
@[simp] theorem raiseError_latch (s : State) (op : BitVec 4) (err : ErrCode) :
    (raiseError s op err).latch = s.latch := rfl
@[simp] theorem raiseError_array (s : State) (op : BitVec 4) (err : ErrCode) :
    (raiseError s op err).array = s.array := rfl
@[simp] theorem raiseError_wait (s : State) (op : BitVec 4) (err : ErrCode) :
    (raiseError s op err).wait = s.wait := rfl
@[simp] theorem raiseError_draws (s : State) (op : BitVec 4) (err : ErrCode) :
    (raiseError s op err).draws = s.draws := rfl
@[simp] theorem raiseError_inputs (s : State) (op : BitVec 4) (err : ErrCode) :
    (raiseError s op err).inputs = s.inputs := rfl
@[simp] theorem raiseError_seen (s : State) (op : BitVec 4) (err : ErrCode) :
    (raiseError s op err).seen = s.seen := rfl

@[simp] theorem latchCommand_cfg (s : State) (raw : Word) (n : Nat) :
    (latchCommand s raw n).cfg = s.cfg := rfl
@[simp] theorem latchCommand_status (s : State) (raw : Word) (n : Nat) :
    (latchCommand s raw n).status = s.status.accepted := rfl
@[simp] theorem latchCommand_maxItems (s : State) (raw : Word) (n : Nat) :
    (latchCommand s raw n).maxItems = s.maxItems := rfl
@[simp] theorem latchCommand_bitsPerItem (s : State) (raw : Word) (n : Nat) :
    (latchCommand s raw n).bitsPerItem = s.bitsPerItem := rfl
@[simp] theorem latchCommand_hashLo (s : State) (raw : Word) (n : Nat) :
    (latchCommand s raw n).hashLo = s.hashLo := rfl
@[simp] theorem latchCommand_hashHi (s : State) (raw : Word) (n : Nat) :
    (latchCommand s raw n).hashHi = s.hashHi := rfl
@[simp] theorem latchCommand_wordIndex (s : State) (raw : Word) (n : Nat) :
    (latchCommand s raw n).wordIndex = s.wordIndex := rfl
@[simp] theorem latchCommand_dataLo (s : State) (raw : Word) (n : Nat) :
    (latchCommand s raw n).dataLo = s.dataLo := rfl
@[simp] theorem latchCommand_dataHi (s : State) (raw : Word) (n : Nat) :
    (latchCommand s raw n).dataHi = s.dataHi := rfl
@[simp] theorem latchCommand_mLo (s : State) (raw : Word) (n : Nat) :
    (latchCommand s raw n).mLo = s.mLo := rfl
@[simp] theorem latchCommand_mHi (s : State) (raw : Word) (n : Nat) :
    (latchCommand s raw n).mHi = s.mHi := rfl
@[simp] theorem latchCommand_k (s : State) (raw : Word) (n : Nat) :
    (latchCommand s raw n).k = s.k := rfl
@[simp] theorem latchCommand_latch (s : State) (raw : Word) (n : Nat) :
    (latchCommand s raw n).latch = sampleLatch s raw := rfl
@[simp] theorem latchCommand_array (s : State) (raw : Word) (n : Nat) :
    (latchCommand s raw n).array = s.array := rfl
@[simp] theorem latchCommand_wait (s : State) (raw : Word) (n : Nat) :
    (latchCommand s raw n).wait = n := rfl
@[simp] theorem latchCommand_draws (s : State) (raw : Word) (n : Nat) :
    (latchCommand s raw n).draws = s.draws := rfl
@[simp] theorem latchCommand_inputs (s : State) (raw : Word) (n : Nat) :
    (latchCommand s raw n).inputs = s.inputs := rfl
@[simp] theorem latchCommand_seen (s : State) (raw : Word) (n : Nat) :
    (latchCommand s raw n).seen = s.seen := rfl

@[simp] theorem acceptCommand_cfg (s : State) (raw : Word) :
    (acceptCommand s raw).cfg = s.cfg := rfl
@[simp] theorem acceptCommand_status (s : State) (raw : Word) :
    (acceptCommand s raw).status = s.status.accepted := rfl
@[simp] theorem acceptCommand_maxItems (s : State) (raw : Word) :
    (acceptCommand s raw).maxItems = s.maxItems := rfl
@[simp] theorem acceptCommand_bitsPerItem (s : State) (raw : Word) :
    (acceptCommand s raw).bitsPerItem = s.bitsPerItem := rfl
@[simp] theorem acceptCommand_hashLo (s : State) (raw : Word) :
    (acceptCommand s raw).hashLo = s.hashLo := rfl
@[simp] theorem acceptCommand_hashHi (s : State) (raw : Word) :
    (acceptCommand s raw).hashHi = s.hashHi := rfl
@[simp] theorem acceptCommand_wordIndex (s : State) (raw : Word) :
    (acceptCommand s raw).wordIndex = s.wordIndex := rfl
@[simp] theorem acceptCommand_dataLo (s : State) (raw : Word) :
    (acceptCommand s raw).dataLo = s.dataLo := rfl
@[simp] theorem acceptCommand_dataHi (s : State) (raw : Word) :
    (acceptCommand s raw).dataHi = s.dataHi := rfl
@[simp] theorem acceptCommand_mLo (s : State) (raw : Word) :
    (acceptCommand s raw).mLo = s.mLo := rfl
@[simp] theorem acceptCommand_mHi (s : State) (raw : Word) :
    (acceptCommand s raw).mHi = s.mHi := rfl
@[simp] theorem acceptCommand_k (s : State) (raw : Word) :
    (acceptCommand s raw).k = s.k := rfl
@[simp] theorem acceptCommand_latch (s : State) (raw : Word) :
    (acceptCommand s raw).latch = sampleLatch s raw := rfl
@[simp] theorem acceptCommand_array (s : State) (raw : Word) :
    (acceptCommand s raw).array = s.array := rfl
@[simp] theorem acceptCommand_wait (s : State) (raw : Word) :
    (acceptCommand s raw).wait = Config.freeLatency s.draws := rfl
@[simp] theorem acceptCommand_draws (s : State) (raw : Word) :
    (acceptCommand s raw).draws = s.draws + 1 := rfl
@[simp] theorem acceptCommand_inputs (s : State) (raw : Word) :
    (acceptCommand s raw).inputs = s.inputs := rfl
@[simp] theorem acceptCommand_seen (s : State) (raw : Word) :
    (acceptCommand s raw).seen = s.seen := rfl

@[simp] theorem dropCommand_cfg (s : State) :
    (dropCommand s).cfg = s.cfg := rfl
@[simp] theorem dropCommand_status (s : State) :
    (dropCommand s).status = s.status.dropped := rfl
@[simp] theorem dropCommand_maxItems (s : State) :
    (dropCommand s).maxItems = s.maxItems := rfl
@[simp] theorem dropCommand_bitsPerItem (s : State) :
    (dropCommand s).bitsPerItem = s.bitsPerItem := rfl
@[simp] theorem dropCommand_hashLo (s : State) :
    (dropCommand s).hashLo = s.hashLo := rfl
@[simp] theorem dropCommand_hashHi (s : State) :
    (dropCommand s).hashHi = s.hashHi := rfl
@[simp] theorem dropCommand_wordIndex (s : State) :
    (dropCommand s).wordIndex = s.wordIndex := rfl
@[simp] theorem dropCommand_dataLo (s : State) :
    (dropCommand s).dataLo = s.dataLo := rfl
@[simp] theorem dropCommand_dataHi (s : State) :
    (dropCommand s).dataHi = s.dataHi := rfl
@[simp] theorem dropCommand_mLo (s : State) :
    (dropCommand s).mLo = s.mLo := rfl
@[simp] theorem dropCommand_mHi (s : State) :
    (dropCommand s).mHi = s.mHi := rfl
@[simp] theorem dropCommand_k (s : State) :
    (dropCommand s).k = s.k := rfl
@[simp] theorem dropCommand_latch (s : State) :
    (dropCommand s).latch = s.latch := rfl
@[simp] theorem dropCommand_array (s : State) :
    (dropCommand s).array = s.array := rfl
@[simp] theorem dropCommand_wait (s : State) :
    (dropCommand s).wait = s.wait := rfl
@[simp] theorem dropCommand_draws (s : State) :
    (dropCommand s).draws = s.draws := rfl
@[simp] theorem dropCommand_inputs (s : State) :
    (dropCommand s).inputs = s.inputs := rfl
@[simp] theorem dropCommand_seen (s : State) :
    (dropCommand s).seen = s.seen := rfl

@[simp] theorem observe_cfg (s : State) (v : Word) :
    (observe s v).cfg = s.cfg := rfl
@[simp] theorem observe_status (s : State) (v : Word) :
    (observe s v).status = s.status := rfl
@[simp] theorem observe_maxItems (s : State) (v : Word) :
    (observe s v).maxItems = s.maxItems := rfl
@[simp] theorem observe_bitsPerItem (s : State) (v : Word) :
    (observe s v).bitsPerItem = s.bitsPerItem := rfl
@[simp] theorem observe_hashLo (s : State) (v : Word) :
    (observe s v).hashLo = s.hashLo := rfl
@[simp] theorem observe_hashHi (s : State) (v : Word) :
    (observe s v).hashHi = s.hashHi := rfl
@[simp] theorem observe_wordIndex (s : State) (v : Word) :
    (observe s v).wordIndex = s.wordIndex := rfl
@[simp] theorem observe_dataLo (s : State) (v : Word) :
    (observe s v).dataLo = s.dataLo := rfl
@[simp] theorem observe_dataHi (s : State) (v : Word) :
    (observe s v).dataHi = s.dataHi := rfl
@[simp] theorem observe_mLo (s : State) (v : Word) :
    (observe s v).mLo = s.mLo := rfl
@[simp] theorem observe_mHi (s : State) (v : Word) :
    (observe s v).mHi = s.mHi := rfl
@[simp] theorem observe_k (s : State) (v : Word) :
    (observe s v).k = s.k := rfl
@[simp] theorem observe_latch (s : State) (v : Word) :
    (observe s v).latch = s.latch := rfl
@[simp] theorem observe_array (s : State) (v : Word) :
    (observe s v).array = s.array := rfl
@[simp] theorem observe_wait (s : State) (v : Word) :
    (observe s v).wait = s.wait := rfl
@[simp] theorem observe_draws (s : State) (v : Word) :
    (observe s v).draws = s.draws := rfl
@[simp] theorem observe_inputs (s : State) (v : Word) :
    (observe s v).inputs = s.inputs := rfl
@[simp] theorem observe_seen (s : State) (v : Word) :
    (observe s v).seen = v :: s.seen := rfl

@[simp] theorem constructFilter_cfg (s : State) (n b : Nat) :
    (constructFilter s n b).cfg = s.cfg := rfl
@[simp] theorem constructFilter_status (s : State) (n b : Nat) :
    (constructFilter s n b).status = s.status.constructed := rfl
@[simp] theorem constructFilter_maxItems (s : State) (n b : Nat) :
    (constructFilter s n b).maxItems = s.maxItems := rfl
@[simp] theorem constructFilter_bitsPerItem (s : State) (n b : Nat) :
    (constructFilter s n b).bitsPerItem = s.bitsPerItem := rfl
@[simp] theorem constructFilter_hashLo (s : State) (n b : Nat) :
    (constructFilter s n b).hashLo = s.hashLo := rfl
@[simp] theorem constructFilter_hashHi (s : State) (n b : Nat) :
    (constructFilter s n b).hashHi = s.hashHi := rfl
@[simp] theorem constructFilter_wordIndex (s : State) (n b : Nat) :
    (constructFilter s n b).wordIndex = s.wordIndex := rfl
@[simp] theorem constructFilter_dataLo (s : State) (n b : Nat) :
    (constructFilter s n b).dataLo = s.dataLo := rfl
@[simp] theorem constructFilter_dataHi (s : State) (n b : Nat) :
    (constructFilter s n b).dataHi = s.dataHi := rfl
@[simp] theorem constructFilter_mLo (s : State) (n b : Nat) :
    (constructFilter s n b).mLo = lowWord (BitVec.ofNat 64 (n * b)) := rfl
@[simp] theorem constructFilter_mHi (s : State) (n b : Nat) :
    (constructFilter s n b).mHi = highWord (BitVec.ofNat 64 (n * b)) := rfl
@[simp] theorem constructFilter_k (s : State) (n b : Nat) :
    (constructFilter s n b).k = BitVec.ofNat 32 (ktab b) := rfl
@[simp] theorem constructFilter_latch (s : State) (n b : Nat) :
    (constructFilter s n b).latch = s.latch := rfl
@[simp] theorem constructFilter_array (s : State) (n b : Nat) :
    (constructFilter s n b).array = s.array.zeroWords (wordsFor (n * b)) := rfl
@[simp] theorem constructFilter_wait (s : State) (n b : Nat) :
    (constructFilter s n b).wait = s.wait := rfl
@[simp] theorem constructFilter_draws (s : State) (n b : Nat) :
    (constructFilter s n b).draws = s.draws := rfl
@[simp] theorem constructFilter_inputs (s : State) (n b : Nat) :
    (constructFilter s n b).inputs = s.inputs := rfl
@[simp] theorem constructFilter_seen (s : State) (n b : Nat) :
    (constructFilter s n b).seen = s.seen := rfl

@[simp] theorem resetMachine_cfg (s : State) :
    (resetMachine s).cfg = s.cfg := rfl
@[simp] theorem resetMachine_status (s : State) :
    (resetMachine s).status = State.resetStatus := rfl
@[simp] theorem resetMachine_maxItems (s : State) :
    (resetMachine s).maxItems = 0 := rfl
@[simp] theorem resetMachine_bitsPerItem (s : State) :
    (resetMachine s).bitsPerItem = 0 := rfl
@[simp] theorem resetMachine_hashLo (s : State) :
    (resetMachine s).hashLo = 0 := rfl
@[simp] theorem resetMachine_hashHi (s : State) :
    (resetMachine s).hashHi = 0 := rfl
@[simp] theorem resetMachine_wordIndex (s : State) :
    (resetMachine s).wordIndex = 0 := rfl
@[simp] theorem resetMachine_dataLo (s : State) :
    (resetMachine s).dataLo = 0 := rfl
@[simp] theorem resetMachine_dataHi (s : State) :
    (resetMachine s).dataHi = 0 := rfl
@[simp] theorem resetMachine_mLo (s : State) :
    (resetMachine s).mLo = 0 := rfl
@[simp] theorem resetMachine_mHi (s : State) :
    (resetMachine s).mHi = 0 := rfl
@[simp] theorem resetMachine_k (s : State) :
    (resetMachine s).k = 0 := rfl
@[simp] theorem resetMachine_latch (s : State) :
    (resetMachine s).latch = State.emptyLatch := rfl
@[simp] theorem resetMachine_array (s : State) :
    (resetMachine s).array = { gen := s.array.gen + 1, cells := [] } := rfl
@[simp] theorem resetMachine_wait (s : State) :
    (resetMachine s).wait = 0 := rfl
@[simp] theorem resetMachine_draws (s : State) :
    (resetMachine s).draws = s.draws := rfl
@[simp] theorem resetMachine_inputs (s : State) :
    (resetMachine s).inputs = s.inputs := rfl
@[simp] theorem resetMachine_seen (s : State) :
    (resetMachine s).seen = s.seen := rfl

@[simp] theorem takeInput_cfg (s : State) (rest : List Input) :
    (takeInput s rest).cfg = s.cfg := rfl
@[simp] theorem takeInput_status (s : State) (rest : List Input) :
    (takeInput s rest).status = s.status := rfl
@[simp] theorem takeInput_maxItems (s : State) (rest : List Input) :
    (takeInput s rest).maxItems = s.maxItems := rfl
@[simp] theorem takeInput_bitsPerItem (s : State) (rest : List Input) :
    (takeInput s rest).bitsPerItem = s.bitsPerItem := rfl
@[simp] theorem takeInput_hashLo (s : State) (rest : List Input) :
    (takeInput s rest).hashLo = s.hashLo := rfl
@[simp] theorem takeInput_hashHi (s : State) (rest : List Input) :
    (takeInput s rest).hashHi = s.hashHi := rfl
@[simp] theorem takeInput_wordIndex (s : State) (rest : List Input) :
    (takeInput s rest).wordIndex = s.wordIndex := rfl
@[simp] theorem takeInput_dataLo (s : State) (rest : List Input) :
    (takeInput s rest).dataLo = s.dataLo := rfl
@[simp] theorem takeInput_dataHi (s : State) (rest : List Input) :
    (takeInput s rest).dataHi = s.dataHi := rfl
@[simp] theorem takeInput_mLo (s : State) (rest : List Input) :
    (takeInput s rest).mLo = s.mLo := rfl
@[simp] theorem takeInput_mHi (s : State) (rest : List Input) :
    (takeInput s rest).mHi = s.mHi := rfl
@[simp] theorem takeInput_k (s : State) (rest : List Input) :
    (takeInput s rest).k = s.k := rfl
@[simp] theorem takeInput_latch (s : State) (rest : List Input) :
    (takeInput s rest).latch = s.latch := rfl
@[simp] theorem takeInput_array (s : State) (rest : List Input) :
    (takeInput s rest).array = s.array := rfl
@[simp] theorem takeInput_wait (s : State) (rest : List Input) :
    (takeInput s rest).wait = s.wait - 1 := rfl
@[simp] theorem takeInput_draws (s : State) (rest : List Input) :
    (takeInput s rest).draws = s.draws := rfl
@[simp] theorem takeInput_inputs (s : State) (rest : List Input) :
    (takeInput s rest).inputs = rest := rfl
@[simp] theorem takeInput_seen (s : State) (rest : List Input) :
    (takeInput s rest).seen = s.seen := rfl

/-- A dropped or an accepted CMD write, by BUSY (10_state.md R23). -/
theorem submitCommand_busy {s : State} (h : s.status.busy = true) (raw : Word) :
    submitCommand s raw = dropCommand s := if_pos h

theorem submitCommand_idle {s : State} (h : s.status.busy = false) (raw : Word) :
    submitCommand s raw = acceptCommand s raw := by simp [submitCommand, h]

/-- Splitting and joining a 64-bit quantity (20_memory.md R50). -/
@[simp] theorem joinWords_split (v : Word64) : joinWords (highWord v) (lowWord v) = v := by
  apply BitVec.eq_of_getLsbD_eq
  intro i hi
  simp only [joinWords, highWord, lowWord, BitVec.getLsbD_append, BitVec.getLsbD_extractLsb']
  split_ifs with h
  · simp [h]
  · simp [show i - 32 < 32 by omega, show 32 + (i - 32) = i by omega]

@[simp] theorem highWord_joinWords (hi lo : Word) : highWord (joinWords hi lo) = hi := by
  apply BitVec.eq_of_getLsbD_eq
  intro i hlt
  have hlo : ¬ 32 + i < 32 := by omega
  simp only [highWord, joinWords, BitVec.getLsbD_extractLsb', BitVec.getLsbD_append, hlt, hlo, decide_true,
    Bool.true_and, if_false, Nat.add_sub_cancel_left]

@[simp] theorem lowWord_joinWords (hi lo : Word) : lowWord (joinWords hi lo) = lo := by
  apply BitVec.eq_of_getLsbD_eq
  intro i hlt
  simp only [lowWord, joinWords, BitVec.getLsbD_extractLsb', BitVec.getLsbD_append, hlt, Nat.zero_add, decide_true,
    Bool.true_and, if_true]

/-- m of a newly constructed filter (40_configure.md R74): the product, which 64 bits hold. -/
theorem constructFilter_m {s : State} {n b : Nat} (h : n * b < 2 ^ 64) : (constructFilter s n b).m = n * b := by
  simp only [State.m, constructFilter_mHi, constructFilter_mLo, joinWords_split, BitVec.toNat_ofNat]
  exact Nat.mod_eq_of_lt h

end Sys2Proof.Machine
end

