-- ==== Sys2Proof/Laws/Configure.lean ====
section
/-! SUPPORT. The sizing functions of CONFIG: validity as a proposition, and the bounds of m and k. -/

namespace Sys2Proof.Machine

theorem configValid_iff {n b capBits : Nat} :
    configValid n b capBits = true ↔ 1 ≤ n ∧ n ≤ 2 ^ 31 - 1 ∧ 1 ≤ b ∧ b ≤ 255 ∧ n * b ≤ capBits := by
  simp [configValid, and_assoc]

/-- 40_configure.md R74: 1 <= m, and m fits its two registers. -/
theorem size_of_configValid {n b capBits : Nat} (h : configValid n b capBits = true) :
    1 ≤ n * b ∧ n * b < 2 ^ 64 ∧ n * b ≤ capBits := by
  obtain ⟨h1, h2, h3, h4, h5⟩ := configValid_iff.1 h
  exact ⟨Nat.mul_pos h1 h3, (Nat.mul_le_mul h2 h4).trans_lt (by decide), h5⟩

set_option maxRecDepth 20000 in
theorem ktab_bounds_below : ∀ b, b < 256 → 1 ≤ b → 1 ≤ ktab b ∧ ktab b ≤ 177 := by decide

/-- 10_state.md R39: 1 <= k <= 177. -/
theorem ktab_bounds {n b capBits : Nat} (h : configValid n b capBits = true) : 1 ≤ ktab b ∧ ktab b ≤ 177 := by
  obtain ⟨-, -, h3, h4, -⟩ := configValid_iff.1 h
  exact ktab_bounds_below b (by omega) h3

/-- K of a newly constructed filter (40_configure.md R72). -/
theorem constructFilter_probeCount {s : State} {n b capBits : Nat} (h : configValid n b capBits = true) :
    (constructFilter s n b).probeCount = ktab b := by
  have := (ktab_bounds h).2
  simp only [State.probeCount, constructFilter_k, BitVec.toNat_ofNat]
  omega

/-- The used words of a newly constructed filter (40_configure.md R77). -/
theorem constructFilter_usedWords {s : State} {n b : Nat} (h : n * b < 2 ^ 64) :
    (constructFilter s n b).usedWords = wordsFor (n * b) := by
  rw [State.usedWords, constructFilter_m h]

end Sys2Proof.Machine
end

