-- ==== Sys2Proof/Laws/Decode.lean ====
section
/-! SUPPORT. Decoding: what a decoded word's fields are. -/

namespace Sys2Proof

theorem decodeOp_command {op : BitVec 4} {ie : Bool} {i : Instr} (h : decodeOp op ie = .command i) :
    op = opOf i ∧ ie = ieOf i := by
  unfold decodeOp withoutInputError at h
  split_ifs at h <;> simp_all [opOf, ieOf] <;> (subst h; simp)

/-- All that a decoded word says (30_encoding.md R67): no reserved bit is set, and OP and IE are the instruction's. -/
theorem decode_command {raw : Word} {i : Instr} (h : decode raw = .command i) :
    fieldRsv0 raw = 0#4 ∧ fieldRsv1 raw = 0#23 ∧ fieldOp raw = opOf i ∧ fieldIe raw = ieOf i := by
  unfold decode at h
  split_ifs at h with hr
  rw [not_or, not_not, not_not] at hr
  exact ⟨hr.1, hr.2, decodeOp_command h⟩

end Sys2Proof
end

