-- ==== Sys2Proof/Laws/Probe.lean ====
section
/-! SUPPORT. Probe sequences, and what the lanes do: the one lemma for setting and the one for testing say that the beats have no
effect of their own (41_probe.md R88). -/

namespace Sys2Proof.Machine

@[simp] theorem length_probes (h : Word64) (m k : Nat) : (probes h m k).length = k := by simp [probes]

theorem mem_probes {h : Word64} {m k p : Nat} : p ∈ probes h m k ↔ ∃ i, i < k ∧ probeIndex h m i = p := by
  simp [probes]

theorem setMask_getLsbD (ps : List Nat) (w q : Nat) (hq : q < 64) :
    (setMask ps w).getLsbD q = ps.contains (64 * w + q) := by
  induction ps with
  | nil => simp [setMask]
  | cons p ps ih =>
    have h : setMask (p :: ps) w =
        if p / 64 = w then BitVec.twoPow 64 (p % 64) ||| setMask ps w else setMask ps w := rfl
    rw [h, List.contains_cons]
    split_ifs with hp
    · have h64 : p % 64 < 64 := Nat.mod_lt _ (by decide)
      have hx : (p % 64 = q) ↔ (64 * w + q = p) := by omega
      simp [ih, h64, hx, beq_eq_decide]
    · have hx : (64 * w + q == p) = false := by simpa using (by omega : 64 * w + q ≠ p)
      simp [ih, hx]

theorem setMask_append (ps qs : List Nat) (w : Nat) : setMask (ps ++ qs) w = setMask ps w ||| setMask qs w := by
  apply BitVec.eq_of_getLsbD_eq
  intro q hq
  simp [setMask_getLsbD _ _ _ hq]

theorem setMask_eq_zero {ps : List Nat} {w : Nat} (h : w ∉ ps.map (· / 64)) : setMask ps w = 0 := by
  apply BitVec.eq_of_getLsbD_eq
  intro q hq
  rw [setMask_getLsbD _ _ _ hq]
  simp only [BitVec.ofNat_eq_ofNat, BitVec.getLsbD_zero, List.contains_eq_mem, decide_eq_false_iff_not]
  exact fun hm => h (List.mem_map.2 ⟨_, hm, by omega⟩)

@[simp] theorem mem_eachOnce {ws : List Nat} {w : Nat} : w ∈ eachOnce ws ↔ w ∈ ws := by
  induction ws with
  | nil => rfl
  | cons a ws ih =>
    simp only [eachOnce]
    split_ifs with h
    · simp only [List.contains_eq_mem, decide_eq_true_eq] at h
      rw [ih, List.mem_cons]
      exact ⟨Or.inr, fun hw => hw.elim (fun e => e ▸ h) id⟩
    · simp [ih]

theorem nodup_eachOnce (ws : List Nat) : (eachOnce ws).Nodup := by
  induction ws with
  | nil => exact List.nodup_nil
  | cons a ws ih =>
    simp only [eachOnce]
    split_ifs with h
    · exact ih
    · exact List.nodup_cons.2 ⟨by simpa using h, ih⟩

section Beat

/-- One write per word of a list without repeats: the word read back has the mask, the others are as before. -/
theorem readWord_foldl_mask (mask : Nat → Word64) (ws : List Nat) (hn : ws.Nodup) (A : BitArray) (x : Nat) :
    (ws.foldl (fun B w => B.writeWord w (B.readWord w ||| mask w)) A).readWord x =
      if x ∈ ws then A.readWord x ||| mask x else A.readWord x := by
  induction ws generalizing A with
  | nil => simp
  | cons w ws ih =>
    obtain ⟨hw, hn⟩ := List.nodup_cons.1 hn
    rw [List.foldl_cons, ih hn, BitArray.readWord_writeWord]
    by_cases hx : x = w
    · subst hx; simp [hw]
    · simp [hx]

theorem listed_foldl_mask (mask : Nat → Word64) (ws : List Nat) (A : BitArray) (x : Nat) :
    (ws.foldl (fun B w => B.writeWord w (B.readWord w ||| mask w)) A).listed x =
      (decide (x ∈ ws) || A.listed x) := by
  induction ws generalizing A with
  | nil => simp
  | cons w ws ih =>
    rw [List.foldl_cons, ih, BitArray.listed_writeWord]
    by_cases hx : x = w <;> simp [hx]

theorem foldl_mask_gen (mask : Nat → Word64) (ws : List Nat) (A : BitArray) :
    (ws.foldl (fun B w => B.writeWord w (B.readWord w ||| mask w)) A).gen = A.gen := by
  induction ws generalizing A with
  | nil => rfl
  | cons w ws ih => rw [List.foldl_cons, ih, BitArray.writeWord_gen]

theorem wf_foldl_mask (mask : Nat → Word64) (ws : List Nat) {A : BitArray} (h : A.wf = true) :
    (ws.foldl (fun B w => B.writeWord w (B.readWord w ||| mask w)) A).wf = true := by
  induction ws generalizing A with
  | nil => exact h
  | cons w ws ih => exact ih (BitArray.wf_writeWord _ _ h)

end Beat

theorem readWord_setBeat (A : BitArray) (ps : List Nat) (w : Nat) :
    (setBeat A ps).readWord w = A.readWord w ||| setMask ps w := by
  rw [setBeat, readWord_foldl_mask _ _ (nodup_eachOnce _)]
  split_ifs with h
  · rfl
  · simp [setMask_eq_zero (fun hm => h (mem_eachOnce.2 hm))]

theorem flatten_beatsOf (lanes : Nat) (hl : 1 ≤ lanes) (fuel : Nat) (ps : List Nat) (hf : ps.length ≤ fuel) :
    (beatsOf lanes fuel ps).flatten = ps := by
  induction fuel generalizing ps with
  | zero => cases ps with
    | nil => rfl
    | cons p ps => simp at hf
  | succ fuel ih => cases ps with
    | nil => rfl
    | cons p ps =>
      rw [beatsOf, List.flatten_cons, ih]
      · exact List.take_append_drop lanes (p :: ps)
      · simp only [List.length_drop, List.length_cons] at hf ⊢; omega

/-- The beats hold every probe once and in order (R87). -/
theorem flatten_beats (lanes : Nat) (hl : 1 ≤ lanes) (ps : List Nat) : (beats lanes ps).flatten = ps :=
  flatten_beatsOf lanes hl _ ps le_rfl

theorem one_le_laneCount (c : Params) : 1 ≤ laneCount c := le_max_left _ _

theorem readWord_foldl_setBeat (bs : List (List Nat)) (A : BitArray) (w : Nat) :
    (bs.foldl setBeat A).readWord w = A.readWord w ||| setMask bs.flatten w := by
  induction bs generalizing A with
  | nil => simp [setMask]
  | cons b bs ih =>
    rw [List.foldl_cons, ih, readWord_setBeat, List.flatten_cons, setMask_append, BitVec.or_assoc]

/-- All that the lanes of an INSERT do to a word (41_probe.md R88). -/
theorem readWord_setProbes {lanes : Nat} (hl : 1 ≤ lanes) (A : BitArray) (ps : List Nat) (w : Nat) :
    (setProbes lanes A ps).readWord w = A.readWord w ||| setMask ps w := by
  rw [setProbes, readWord_foldl_setBeat, flatten_beats lanes hl]

/-- The same, bit by bit. -/
theorem bitRead_setProbes {lanes : Nat} (hl : 1 ≤ lanes) (A : BitArray) (ps : List Nat) (p : Nat) :
    (setProbes lanes A ps).bitRead p = (A.bitRead p || ps.contains p) := by
  have h64 : p % 64 < 64 := Nat.mod_lt _ (by decide)
  rw [BitArray.bitRead, readWord_setProbes hl, BitVec.getLsbD_or, setMask_getLsbD _ _ _ h64, Nat.div_add_mod]
  rfl

@[simp] theorem setProbes_gen (lanes : Nat) (A : BitArray) (ps : List Nat) :
    (setProbes lanes A ps).gen = A.gen := by
  rw [setProbes]
  generalize beats lanes ps = bs
  induction bs generalizing A with
  | nil => rfl
  | cons b bs ih => rw [List.foldl_cons, ih, setBeat, foldl_mask_gen]

theorem wf_setProbes (lanes : Nat) {A : BitArray} (ps : List Nat) (h : A.wf = true) :
    (setProbes lanes A ps).wf = true := by
  rw [setProbes]
  generalize beats lanes ps = bs
  induction bs generalizing A with
  | nil => exact h
  | cons b bs ih => exact ih (wf_foldl_mask _ _ h)

theorem listed_foldl_setBeat (bs : List (List Nat)) (A : BitArray) (w : Nat) :
    (bs.foldl setBeat A).listed w = (decide (w ∈ bs.flatten.map (· / 64)) || A.listed w) := by
  induction bs generalizing A with
  | nil => simp
  | cons b bs ih =>
    rw [List.foldl_cons, ih, setBeat, listed_foldl_mask]
    simp only [mem_eachOnce, List.flatten_cons, List.map_append, List.mem_append]
    by_cases h1 : w ∈ b.map (· / 64) <;> simp [h1]

/-- Which words an INSERT lists: those a probe lies in. -/
theorem listed_setProbes {lanes : Nat} (hl : 1 ≤ lanes) (A : BitArray) (ps : List Nat) (w : Nat) :
    (setProbes lanes A ps).listed w = (decide (w ∈ ps.map (· / 64)) || A.listed w) := by
  rw [setProbes, listed_foldl_setBeat, flatten_beats lanes hl]

theorem testBeats_eq (A : BitArray) (bs : List (List Nat)) :
    testBeats A bs = bs.flatten.all (fun p => A.bitRead p) := by
  induction bs with
  | nil => rfl
  | cons b bs ih =>
    simp only [testBeats, ih, List.flatten_cons, List.all_append]
    cases b.all (fun p => A.bitRead p) <;> rfl

/-- All that the lanes of a QUERY answer: the AND of the probed bits (41_probe.md R88). -/
theorem testProbes_eq {lanes : Nat} (hl : 1 ≤ lanes) (A : BitArray) (ps : List Nat) :
    testProbes lanes A ps = ps.all (fun p => A.bitRead p) := by
  rw [testProbes, testBeats_eq, flatten_beats lanes hl]

end Sys2Proof.Machine
end

