-- ==== Sys2Proof/Laws/Exec.lean ====
section
/-! SUPPORT. One spec lemma per meaning, per agent's move and for the step: everything each can do, so that no later proof unfolds
it. -/

namespace Sys2Proof.Machine

/-- All that CONFIG can do. -/
theorem execConfig_cases (s : State) :
    (configValid s.latch.n s.latch.b s.cfg.capBits = true ∧
      execConfig s = .next (complete (constructFilter s s.latch.n s.latch.b) 0x1#4 .ok false)) ∨
    (configValid s.latch.n s.latch.b s.cfg.capBits = false ∧
      execConfig s = .next (raiseError s 0x1#4 .invalidConfiguration)) := by
  cases h : configValid s.latch.n s.latch.b s.cfg.capBits <;> simp [execConfig, h]

/-- All that INSERT can do. -/
theorem execInsert_cases (ie : Bool) (s : State) :
    (s.status.configured = false ∧ execInsert ie s = .next (raiseError s 0x2#4 .notConfigured)) ∨
    (s.status.configured = true ∧ ie = true ∧ execInsert ie s = .next (raiseError s 0x2#4 .invalidInput)) ∨
    (s.status.configured = true ∧ ie = false ∧
      execInsert ie s = .next
        (complete { s with array := setProbes (laneCount s.cfg) s.array (latchedProbes s) } 0x2#4 .ok false)) := by
  cases h : s.status.configured <;> cases ie <;> simp [execInsert, h]

/-- All that QUERY can do. -/
theorem execQuery_cases (ie : Bool) (s : State) :
    (s.status.configured = false ∧ execQuery ie s = .next (raiseError s 0x3#4 .notConfigured)) ∨
    (s.status.configured = true ∧ ie = true ∧ execQuery ie s = .next (raiseError s 0x3#4 .invalidInput)) ∨
    (s.status.configured = true ∧ ie = false ∧
      execQuery ie s = .next
        (complete s 0x3#4 .ok ((latchedProbes s).all (fun p => s.array.bitRead p)))) := by
  cases h : s.status.configured <;> cases ie <;> simp [execQuery, h, testProbes_eq (one_le_laneCount s.cfg)]

/-- All that READW can do. -/
theorem execReadw_cases (s : State) :
    (s.status.configured = false ∧ execReadw s = .next (raiseError s 0x4#4 .notConfigured)) ∨
    (s.status.configured = true ∧ s.usedWords ≤ s.latch.w ∧ execReadw s = .next (raiseError s 0x4#4 .indexRange)) ∨
    (s.status.configured = true ∧ s.latch.w < s.usedWords ∧
      execReadw s = .next
        (complete { s with
          dataLo := lowWord (s.array.readWord s.latch.w)
          dataHi := highWord (s.array.readWord s.latch.w) } 0x4#4 .ok false)) := by
  cases h : s.status.configured
  · simp [execReadw, h]
  · by_cases hw : s.usedWords ≤ s.latch.w
    · simp [execReadw, h, hw]
    · simp [execReadw, h, hw, Nat.lt_of_not_le hw]

/-- No command stops the machine (60_exceptions.md R106: a failing command ends normally). -/
theorem exec_next (i : Instr) (s : State) : ∃ t, exec i s = .next t := by
  cases i with
  | config => rcases execConfig_cases s with ⟨-, h⟩ | ⟨-, h⟩ <;> exact ⟨_, h⟩
  | insert ie => rcases execInsert_cases ie s with ⟨-, h⟩ | ⟨-, -, h⟩ | ⟨-, -, h⟩ <;> exact ⟨_, h⟩
  | query ie => rcases execQuery_cases ie s with ⟨-, h⟩ | ⟨-, -, h⟩ | ⟨-, -, h⟩ <;> exact ⟨_, h⟩
  | readw => rcases execReadw_cases s with ⟨-, h⟩ | ⟨-, -, h⟩ | ⟨-, -, h⟩ <;> exact ⟨_, h⟩

/-- What a command may change: everything else is as before (the two agents' own fields among it). -/
structure CommandFrame (s t : State) : Prop where
  cfg : t.cfg = s.cfg
  maxItems : t.maxItems = s.maxItems
  bitsPerItem : t.bitsPerItem = s.bitsPerItem
  hashLo : t.hashLo = s.hashLo
  hashHi : t.hashHi = s.hashHi
  wordIndex : t.wordIndex = s.wordIndex
  latch : t.latch = s.latch
  gen : t.array.gen = s.array.gen
  wait : t.wait = s.wait
  draws : t.draws = s.draws
  inputs : t.inputs = s.inputs
  seen : t.seen = s.seen
  busy : t.status.busy = false
  overrun : t.status.overrun = s.status.overrun

theorem exec_frame {i : Instr} {s t : State} (h : exec i s = .next t) : CommandFrame s t := by
  cases i with
  | config =>
    rcases execConfig_cases s with ⟨-, e⟩ | ⟨-, e⟩ <;>
      (obtain rfl := Host.Outcome.next.inj (h.symm.trans e); constructor <;> rfl)
  | insert ie =>
    rcases execInsert_cases ie s with ⟨-, e⟩ | ⟨-, -, e⟩ | ⟨-, -, e⟩ <;>
      (obtain rfl := Host.Outcome.next.inj (h.symm.trans e); constructor <;> first | rfl | exact setProbes_gen _ _ _)
  | query ie =>
    rcases execQuery_cases ie s with ⟨-, e⟩ | ⟨-, -, e⟩ | ⟨-, -, e⟩ <;>
      (obtain rfl := Host.Outcome.next.inj (h.symm.trans e); constructor <;> rfl)
  | readw =>
    rcases execReadw_cases s with ⟨-, e⟩ | ⟨-, -, e⟩ | ⟨-, -, e⟩ <;>
      (obtain rfl := Host.Outcome.next.inj (h.symm.trans e); constructor <;> rfl)

/-- All that the engine's move can do. -/
theorem engineMove_cases (s : State) :
    (∃ i, decode s.latch.raw = .command i ∧ engineMove s = exec i s) ∨
    (∃ why, decode s.latch.raw = .illegal why ∧ engineMove s = .next (completeIllegal s)) := by
  cases h : decode s.latch.raw with
  | command i => exact .inl ⟨i, rfl, by simp [engineMove, h]⟩
  | illegal why => exact .inr ⟨why, rfl, by simp [engineMove, h]⟩

theorem engineMove_next (s : State) : ∃ t, engineMove s = .next t := by
  rcases engineMove_cases s with ⟨i, -, h⟩ | ⟨-, -, h⟩
  · exact h ▸ exec_next i s
  · exact ⟨_, h⟩

theorem engineMove_frame {s t : State} (h : engineMove s = .next t) : CommandFrame s t := by
  rcases engineMove_cases s with ⟨i, -, e⟩ | ⟨-, -, e⟩
  · exact exec_frame (e ▸ h)
  · obtain rfl := Host.Outcome.next.inj (h.symm.trans e)
    constructor <;> rfl

/-- All that a bus write can do. -/
theorem busWrite_cases (s : State) (addr : Nat) (width : Width) (v : Word64) :
    (∃ sl, busTarget s.cfg.base addr width = .slot sl ∧
      busWrite s addr width v = .next (writeSlot s (v.setWidth 32) sl)) ∨
    (busTarget s.cfg.base addr width = .outside ∧ busWrite s addr width v = .next s) ∨
    (busTarget s.cfg.base addr width = .violation ∧ busWrite s addr width v = .fault .hostProtocolViolation) := by
  cases h : busTarget s.cfg.base addr width <;> simp [busWrite, h]

/-- All that a bus read can do. -/
theorem busRead_cases (s : State) (addr : Nat) (width : Width) :
    (∃ sl, busTarget s.cfg.base addr width = .slot sl ∧
      busRead s addr width = .next (observe s (readSlot s sl))) ∨
    (busTarget s.cfg.base addr width = .outside ∧ busRead s addr width = .next s) ∨
    (busTarget s.cfg.base addr width = .violation ∧ busRead s addr width = .fault .hostProtocolViolation) := by
  cases h : busTarget s.cfg.base addr width <;> simp [busRead, h]

theorem slotAt_offset (sl : Slot) : slotAt sl.offset = some sl := by cases sl <;> decide

theorem Slot.offset_lt (sl : Slot) : sl.offset < 64 := by cases sl <;> decide

/-- A 32-bit access at a register's address is an access of that register (10_state.md R20, 20_memory.md R48). -/
theorem busTarget_slot (base : Nat) (sl : Slot) : busTarget base (base + sl.offset) .w32 = .slot sl := by
  have h := sl.offset_lt
  have h1 : ¬(base + sl.offset + 4 ≤ base ∨ base + 64 ≤ base + sl.offset) := by omega
  simp only [busTarget, Width.bytes, if_neg h1, Nat.le_add_right, and_self, if_true, Nat.add_sub_cancel_left,
    slotAt_offset]

theorem Status.word_bit0 (st : Status) : st.word.getLsbD 0 = st.busy := by
  simp only [Status.word, BitVec.getLsbD_append]
  cases st.busy <;> rfl

/-- All that one turn of POLL does (30_encoding.md R71). -/
theorem pollOnce_eq (s : State) :
    pollOnce s =
      if s.status.busy then { observe s s.status.word with inputs := .poll :: s.inputs }
      else observe s s.status.word := by
  simp only [pollOnce, readSlot, Status.word_bit0]

@[simp] theorem pollOnce_status (s : State) : (pollOnce s).status = s.status := by
  rw [pollOnce_eq]
  split <;> rfl

/-- All that one host input can do when it does not stop the machine. -/
theorem hostInput_cases {s t : State} {x : Input} (h : hostInput s x = .next t) :
    (∃ a w v sl, x = .write a w v ∧ busTarget s.cfg.base a w = .slot sl ∧ t = writeSlot s (v.setWidth 32) sl) ∨
    (∃ a w v, x = .write a w v ∧ busTarget s.cfg.base a w = .outside ∧ t = s) ∨
    (∃ a w sl, x = .read a w ∧ busTarget s.cfg.base a w = .slot sl ∧ t = observe s (readSlot s sl)) ∨
    (∃ a w, x = .read a w ∧ busTarget s.cfg.base a w = .outside ∧ t = s) ∨
    (x = .poll ∧ t = pollOnce s) ∨ (x = .reset ∧ t = resetMachine s) := by
  cases x with
  | write a w v =>
    rcases busWrite_cases s a w v with ⟨sl, hs, e⟩ | ⟨hs, e⟩ | ⟨hs, e⟩
    · exact .inl ⟨a, w, v, sl, rfl, hs, Host.Outcome.next.inj (h.symm.trans e)⟩
    · exact .inr (.inl ⟨a, w, v, rfl, hs, Host.Outcome.next.inj (h.symm.trans e)⟩)
    · exact absurd (h.symm.trans e) nofun
  | read a w =>
    rcases busRead_cases s a w with ⟨sl, hs, e⟩ | ⟨hs, e⟩ | ⟨hs, e⟩
    · exact .inr (.inr (.inl ⟨a, w, sl, rfl, hs, Host.Outcome.next.inj (h.symm.trans e)⟩))
    · exact .inr (.inr (.inr (.inl ⟨a, w, rfl, hs, Host.Outcome.next.inj (h.symm.trans e)⟩)))
    · exact absurd (h.symm.trans e) nofun
  | poll => exact .inr (.inr (.inr (.inr (.inl ⟨rfl, (Host.Outcome.next.inj h).symm⟩))))
  | reset => exact .inr (.inr (.inr (.inr (.inr ⟨rfl, (Host.Outcome.next.inj h).symm⟩))))

/-- The step is the engine's move in the engine's turn and the host's otherwise. -/
theorem step_engine {s : State} (h : engineTurn s = true) : step s = engineMove s := by simp [step, h]

theorem step_host {s : State} (h : engineTurn s = false) : step s = hostMove s := by simp [step, h]

theorem hostMove_nil {s : State} (h : s.inputs = []) : hostMove s = .next s := by simp [hostMove, h]

theorem hostMove_cons {s : State} {i : Input} {rest : List Input} (h : s.inputs = i :: rest) :
    hostMove s = hostInput (takeInput s rest) i := by simp [hostMove, h]

/-- All that a step can do. -/
theorem step_cases (s : State) :
    (engineTurn s = true ∧ step s = engineMove s) ∨
    (engineTurn s = false ∧ s.inputs = [] ∧ step s = .next s) ∨
    (∃ i rest, engineTurn s = false ∧ s.inputs = i :: rest ∧
      step s = hostInput (takeInput s rest) i) := by
  cases h : engineTurn s
  · cases hi : s.inputs with
    | nil => exact .inr (.inl ⟨rfl, rfl, (step_host h).trans (hostMove_nil hi)⟩)
    | cons i rest => exact .inr (.inr ⟨i, rest, rfl, rfl, (step_host h).trans (hostMove_cons hi)⟩)
  · exact .inl ⟨rfl, step_engine h⟩

theorem engineTurn_idle {s : State} (h : s.status.busy = false) : engineTurn s = false := by simp [engineTurn, h]

theorem engineTurn_eq_true {s : State} :
    engineTurn s = true ↔ s.status.busy = true ∧ (s.wait = 0 ∨ s.inputs = []) := by
  simp [engineTurn]

end Sys2Proof.Machine
end

