-- ==== Sys2Proof/Laws/PerInstr.lean ====
section
/-! SUPPORT. Statements made per instruction (LAWS.json). -/

namespace Sys2Proof.Laws.TableRow

/-- The match value of the instruction's row of spec/opcode_table.json. -/
def rowMatch : Instr → Word
  | .config => 0x00000001#32
  | .insert _ => 0x00000002#32
  | .query _ => 0x00000003#32
  | .readw => 0x00000004#32

/-- The mask of the instruction's row. -/
def rowMask : Instr → Word
  | .config => 0xFFFFFFFF#32
  | .insert _ => 0xFFFFFEFF#32
  | .query _ => 0xFFFFFEFF#32
  | .readw => 0xFFFFFFFF#32

/-- The encoded word lies in its own row of the table (30_encoding.md R68). -/
def Statement (i : Instr) : Prop := i.wellFormed = true ∧ encode i &&& rowMask i = rowMatch i

theorem config : Statement .config := by unfold Statement; decide

theorem insert (ie : Bool) : Statement (.insert ie) := by unfold Statement; cases ie <;> decide

theorem query (ie : Bool) : Statement (.query ie) := by unfold Statement; cases ie <;> decide

theorem readw : Statement .readw := by unfold Statement; decide

end Sys2Proof.Laws.TableRow
end

