-- ==== Sys2Proof/Tests/Slice0.lean ====
section
/-! SUPPORT. Tests of single steps against the vectors of spec/95_test_vectors.md, smoke tests of well-formedness and decoding, and
for every obligation with hypotheses a state that meets all of them. -/

namespace Sys2Proof.Tests
open Sys2Proof Sys2Proof.Machine

/-! Well-formedness (00_scope.md R8 to R10): each check refuses an ill-formed term. -/

theorem test_params_wellFormed : Config.params.wellFormed = true := by decide
theorem test_params_no_storage : (Params.mk 0#32 4 0).wellFormed = false := by decide
theorem test_params_no_lane : (Params.mk 4096#32 0 0).wellFormed = false := by decide
theorem test_params_base_not_aligned : (Params.mk 4096#32 4 0x1020).wellFormed = false := by decide
theorem test_instr_wellFormed : (Instr.insert true).wellFormed = true := by decide

/-! Decoding: words written bit by bit from the format CW of 30_encoding.md R63: RSV1 [31:9], IE [8], RSV0 [7:4], OP [3:0]. -/

theorem test_decode_config : decode 0b00000000000000000000000_0_0000_0001#32 = .command .config := by decide
theorem test_decode_insert : decode 0b00000000000000000000000_0_0000_0010#32 = .command (.insert false) := by decide
theorem test_decode_insert_ie : decode 0b00000000000000000000000_1_0000_0010#32 = .command (.insert true) := by decide
theorem test_decode_query : decode 0b00000000000000000000000_0_0000_0011#32 = .command (.query false) := by decide
theorem test_decode_query_ie : decode 0b00000000000000000000000_1_0000_0011#32 = .command (.query true) := by decide
theorem test_decode_readw : decode 0b00000000000000000000000_0_0000_0100#32 = .command .readw := by decide
theorem test_decode_op0 : decode 0b00000000000000000000000_0_0000_0000#32 = .illegal .unknownOp := by decide
theorem test_decode_config_ie :
    decode 0b00000000000000000000000_1_0000_0001#32 = .illegal .inputErrorNotAllowed := by decide
theorem test_decode_rsv0 : decode 0b00000000000000000000000_0_0001_0010#32 = .illegal .reservedBitSet := by decide
theorem test_decode_rsv1 : decode 0b00010000000000000000000_0_0000_0010#32 = .illegal .reservedBitSet := by decide
theorem test_encode_query_ie : encode (.query true) = 0x00000103#32 := by decide
theorem test_decodeTableWord : decodeTableWord 32 0x103 = some (.query true) := by decide
theorem test_decodeTableWord_illegal : decodeTableWord 32 0x104 = none := by decide

/-! Small states. -/

/-- The condition holds of the next state. -/
def holdsAfter (o : Host.Outcome State Fault Refusal) (p : State → Bool) : Bool :=
  match o with
  | .next t => p t
  | .fault _ => false
  | .refused _ => false

/-- A machine after reset with 4096 words of storage (the default of 95_test_vectors.md), two lanes and its window at 0x1000. -/
def blank : State := State.powerOn { capWords := 4096#32, kLanes := 2, base := 0x1000 }

/-- The same with a filter of m bits and k probes over the listed words. -/
def filter (m : Word64) (k : Word) (cells : List (Nat × Word64)) : State :=
  { blank with
    mLo := lowWord m
    mHi := highWord m
    k := k
    array := { gen := 0, cells := cells }
    status := { State.resetStatus with configured := true } }

/-- The operands in the host's registers. -/
def hashed (s : State) (h : Word64) : State := { s with hashLo := lowWord h, hashHi := highWord h }

def sized (s : State) (n b : Word) : State := { s with maxItems := n, bitsPerItem := b }

def indexed (s : State) (w : Word) : State := { s with wordIndex := w }

/-- The command word in flight, to complete at the next step. -/
def inFlight (s : State) (raw : Word) : State := latchCommand s raw 0

/-- The command word in flight, to complete after three more inputs. -/
def waiting (s : State) (raw : Word) : State := latchCommand s raw 3

def hosted (s : State) (xs : List Input) : State := { s with inputs := xs }

/-! CONFIG, INSERT, QUERY, READW: the vectors of 95_test_vectors.md 2.2 to 2.8, one step each. -/

/-- 2.2: n = 10, b = 10. -/
theorem test_config_two_words : holdsAfter (step (inFlight (sized blank 10 10) 0x1#32)) (fun t =>
    t.mLo == 0x64#32 && t.mHi == 0#32 && t.k == 7#32 && t.status.word == 0x102#32 &&
      t.array.cells == [(0, 0), (1, 0)]) = true := by decide

/-- 2.2: n = 4097, b = 64, with a filter present. -/
theorem test_config_too_large : holdsAfter (step (inFlight (sized (filter 1 1 [(0, 1)]) 4097 64) 0x1#32)) (fun t =>
    t.mLo == 1#32 && t.k == 1#32 && t.status.word == 0x112#32 && t.array.cells == [(0, 1)]) = true := by decide

/-- 2.2: m = 214748364700, M_HI not zero. -/
theorem test_config_size : (214748364700#64).extractLsb' 32 32 = 0x31#32 ∧ lowWord 214748364700#64 = 0xFFFFFF9C#32 := by decide

/-- 2.2: the spot values of KTAB. -/
theorem test_ktab : [44, 64, 100, 255].map ktab = [30, 44, 69, 177] := by decide

/-- 2.3: the rows at m = 100 and m = 80000. -/
theorem test_probes : probes 0xFFFFFFFFFFFFFFFF#64 100 7 = [95, 90, 85, 80, 75, 70, 65] ∧
    probes 0x123456789ABCDEF0#64 80000 6 = [59896, 49000, 38104, 27208, 16312, 5416] := by decide

/-- 2.4: m = 64, k = 6. -/
theorem test_insert_one_word : holdsAfter (step (inFlight (hashed (filter 64 6 [(0, 0)]) 0x0000000500000003#64) 0x2#32))
    (fun t => t.array.cells == [(0, 0x124920#64)] && t.status.word == 0x202#32) = true := by decide

/-- 2.4: m = 100, k = 7, the two rows of that size, the bit of the second set before. -/
theorem test_insert_two_words :
    holdsAfter (step (inFlight (hashed (filter 100 7 [(0, 0x4000000000000#64), (1, 0)]) 0xFFFFFFFFFFFFFFFF#64) 0x2#32))
      (fun t => t.array.cells == [(0, 0x4000000000000#64), (1, 0x84210842#64)] && t.status.word == 0x202#32) = true := by
  decide

/-- 2.5: a definite negative. -/
theorem test_query_no : holdsAfter (step (inFlight (hashed (filter 64 6 [(0, 0x124920)]) 0x0000000600000003#64) 0x3#32))
    (fun t => t.status.word == 0x302#32) = true := by decide

/-- 2.5: another hash with the same probes. -/
theorem test_query_yes :
    holdsAfter (step (inFlight (hashed (filter 100 7 [(0, 0x4000000000000), (1, 0x84210842)]) 0x0000005F0000005F#64) 0x3#32))
      (fun t => t.status.word == 0x306#32) = true := by decide

/-- 2.6: a word with bits in its upper half. -/
theorem test_readw : holdsAfter (step (inFlight (indexed (filter 100 7 [(0, 0x4000000000000), (1, 0x84210842)]) 0) 0x4#32))
    (fun t => t.dataLo == 0#32 && t.dataHi == 0x40000#32 && t.status.word == 0x402#32) = true := by decide

/-- 2.6: WORD_INDEX 2 with two used words; DATA keeps its value. -/
theorem test_readw_range :
    holdsAfter (step (inFlight (indexed { filter 100 7 [(0, 0), (1, 0)] with dataLo := 0x84210842 } 2) 0x4#32))
      (fun t => t.dataLo == 0x84210842#32 && t.status.word == 0x452#32) = true := by decide

/-- 2.7: priorities. -/
theorem test_priority :
    holdsAfter (step (inFlight blank 0x102#32)) (fun t => t.status.word == 0x230#32) = true ∧
    holdsAfter (step (inFlight blank 0x12#32)) (fun t => t.status.word == 0x240#32) = true ∧
    holdsAfter (step (inFlight (filter 1 1 [(0, 0)]) 0x103#32)) (fun t => t.status.word == 0x322#32) = true := by decide

/-- 2.8: an operand written after acceptance is not the one used. -/
theorem test_operands_latched :
    holdsAfter (hostMove (hosted (waiting (hashed (filter 64 1 [(0, 0)]) 0x0000000500000000#64) 0x2#32)
        [HostProgram.wr 0x1000 .hashHi 6]))
      (fun s => s.hashHi == 6#32 && holdsAfter (step s) (fun t => t.array.cells == [(0, 0x20#64)])) = true := by decide

/-- 2.8: a dropped command word. -/
theorem test_overrun :
    holdsAfter (step (hosted (waiting (hashed (filter 1 1 [(0, 0)]) 0) 0x3#32) [HostProgram.wr 0x1000 .cmd 2]))
      (fun s => s.status.word == 0x00B#32 && holdsAfter (step s) (fun t => t.status.word == 0x30A#32)) = true := by decide

/-- The fixed name of the host: the word placed is the one that runs (R127, R129). -/
theorem test_withFetchWord : holdsAfter (step (State.reset.withFetchWord 32 0x2)) (fun t => t.status.word == 0x230#32) = true ∧
    (decode (State.reset.withFetchWord 32 0x2).latch.raw) = .command (.insert false) := by decide

/-- The first lines of program P1 of 95_test_vectors.md, as the pseudo-instructions of 30_encoding.md R71 give them. -/
theorem test_host_program : HostProgram.config 0 8 8 =
    [.write 0x10 .w32 8, .write 0x14 .w32 8, .write 0x08 .w32 1, .poll] := by decide

/-! Witnesses: for every obligation that has hypotheses, concrete states and operands that meet them all together. -/

/-- A filter of m = 100 and k = 7 (n = 10, b = 10) with some bits set. -/
def twoWords : State := filter 100 7 [(0, 0x4000000000000), (1, 0x84210842)]

/-- The invariant holds of a machine with a filter. -/
theorem inv_twoWords : Inv twoWords where
  cfg_ok := by decide
  array_wf := by decide
  in_storage w h := by
    by_contra hw
    simp [twoWords, filter, blank, State.powerOn] at hw
    simp [twoWords, filter, BitArray.listed, lookupCell, show ¬0 = w by omega, show ¬1 = w by omega] at h
  no_filter h := absurd h (by decide)
  filter _ :=
    { sized := ⟨10, 10, by decide, by decide, by decide⟩
      written := by
        have : twoWords.usedWords = 2 := by decide
        rw [this]; decide
      padding := by
        have hm : twoWords.m = 100 := by decide
        have hw : twoWords.usedWords = 2 := by decide
        have h : ∀ p, p < 128 → 100 ≤ p → twoWords.array.bitRead p = false := by decide
        rw [hm, hw]
        exact fun p h1 h2 => h p h2 h1 }

theorem inv_blank : Inv blank where
  cfg_ok := by decide
  array_wf := by decide
  in_storage w h := by simp [blank, State.powerOn, BitArray.listed, lookupCell] at h
  no_filter _ := by decide
  filter h := absurd h (by decide)

theorem witness_ReservedBitMakesIllegal :
    (0x00000012#32).getLsbD 4 = true ∧ (0x00000082#32).getLsbD 7 = true ∧
    (0x00000202#32).getLsbD 9 = true ∧ (0x80000002#32).getLsbD 31 = true := by decide

theorem witness_StepRunsTheLatchedCommand :
    (∃ (s : State) (i : Instr), s.status.busy = true ∧ s.wait = 0 ∧ s.inputs ≠ [] ∧ decode s.latch.raw = .command i) ∧
    (∃ (s : State) (i : Instr), s.status.busy = true ∧ s.wait ≠ 0 ∧ s.inputs = [] ∧ decode s.latch.raw = .command i) ∧
    (∃ (s : State) (x : Input) (rest : List Input), s.status.busy = false ∧ s.inputs = x :: rest) ∧
    (∃ (s : State) (x : Input) (rest : List Input), s.status.busy = true ∧ s.wait ≠ 0 ∧ s.inputs = x :: rest) :=
  ⟨⟨hosted (inFlight twoWords 2) [.poll], .insert false, by decide⟩,
   ⟨waiting twoWords 4, .readw, by decide⟩,
   ⟨hosted twoWords [.poll], .poll, [], by decide⟩,
   ⟨hosted (waiting twoWords 4) [.poll, .reset], .poll, [.reset], by decide⟩⟩

/-- With and without a filter. -/
theorem witness_IllegalWordCompletesWithIllegalCommand :
    (engineTurn (inFlight blank 0x104) = true ∧
      decode (inFlight blank 0x104).latch.raw = .illegal .inputErrorNotAllowed) ∧
    (engineTurn (inFlight twoWords 0) = true ∧ decode (inFlight twoWords 0).latch.raw = .illegal .unknownOp) := by decide

/-- n * b = CAP_BITS exactly; n and b at both ends of their ranges (95_test_vectors.md 2.2). -/
theorem witness_ConfigConstructsTheFilter : ∀ nb ∈ [(4096, 64), (1, 1), (1, 255), (0x7FFFFFFF, 100)],
    ∃ s : State, s.latch.maxi.toNat = nb.1 ∧ s.latch.bpi.toNat = nb.2 ∧ 1 ≤ nb.1 ∧ nb.1 ≤ 2 ^ 31 - 1 ∧ 1 ≤ nb.2 ∧
      nb.2 ≤ 255 ∧ nb.1 * nb.2 ≤ 64 * s.cfg.capWords.toNat := by
  intro nb h
  refine ⟨inFlight (sized { blank with cfg := { blank.cfg with
    capWords := if nb.1 = 0x7FFFFFFF then 0xFFFFFFFF#32 else 4096#32 } } (.ofNat 32 nb.1) (.ofNat 32 nb.2)) 1, ?_⟩
  revert nb
  decide

/-- Each check alone. -/
theorem witness_InvalidConfigKeepsTheFilter : ∀ nb ∈ [(0, 8), (0x80000000, 1), (8, 0), (1, 256), (4097, 64)],
    ∃ s : State, s.latch.maxi.toNat = nb.1 ∧ s.latch.bpi.toNat = nb.2 ∧ ¬(1 ≤ nb.1 ∧ nb.1 ≤ 2 ^ 31 - 1 ∧ 1 ≤ nb.2 ∧
      nb.2 ≤ 255 ∧ nb.1 * nb.2 ≤ 64 * s.cfg.capWords.toNat) := by
  intro nb h
  refine ⟨inFlight (sized twoWords (.ofNat 32 nb.1) (.ofNat 32 nb.2)) 1, ?_⟩
  revert nb
  decide

theorem witness_ProbeCountIsTheRoundedProduct : 1 ≤ (1 : Nat) ∧ (1 : Nat) ≤ 255 ∧ 1 ≤ (255 : Nat) ∧ ktab 1 = 1 ∧
    ktab 255 = 177 := by decide

/-- For InsertSetsExactlyTheProbedBits, QueryAnswersTheProbedBits, MalformedInputIsLocal and the first clause of
InsertIsIdempotent. -/
theorem witness_configured : twoWords.status.configured = true ∧ 1 ≤ twoWords.m ∧ 1 ≤ twoWords.k.toNat ∧
    (filter 1 1 [(0, 0)]).status.configured = true ∧ 1 ≤ (filter 1 1 [(0, 0)]).m := by decide

theorem witness_NoFilterMeansNotConfigured : blank.status.configured = false := by decide

/-- The first and the last used word. -/
theorem witness_ReadwReturnsTheWord : ∀ w ∈ [0, 1],
    twoWords.status.configured = true ∧
    (inFlight (indexed twoWords (.ofNat 32 w)) 4).latch.widx.toNat = w ∧ w < (twoWords.m + 63) / 64 := by decide

/-- The first unused word. -/
theorem witness_ReadwOutOfRangeKeepsData :
    (inFlight (indexed twoWords 2) 4).status.configured = true ∧
    ((inFlight (indexed twoWords 2) 4).m + 63) / 64 ≤ (inFlight (indexed twoWords 2) 4).latch.widx.toNat := by decide

/-- A READW that fails, for the inner clause too. -/
theorem witness_ReadwWritesOnlyStatusAndData :
    ∃ t, exec .readw (inFlight (indexed twoWords 2) 4) = .next t ∧ t.status.err ≠ .ok := ⟨_, rfl, by decide⟩

/-- Also for the completion statements EachCommandReportsTheFirstCause (first clause), CompletionWritesLastop and
CompletionWritesResult. -/
theorem witness_FailingCommandChangesOnlyStatus :
    ∃ t, engineTurn (inFlight (indexed twoWords 2) 4) = true ∧ step (inFlight (indexed twoWords 2) 4) = .next t ∧
      t.status.err ≠ .ok := ⟨_, by decide, rfl, by decide⟩

theorem witness_EachCommandReportsTheFirstCause :
    engineTurn (inFlight blank 0x102) = true ∧ (inFlight blank 0x102).latch.raw = 0x00000102#32 ∧
    (inFlight blank 0x102).status.configured = false := by decide

/-- A QUERY whose RESULT is 1. -/
theorem witness_CompletionWritesResult :
    ∃ t, engineTurn (inFlight (hashed twoWords 0x0000005F0000005F#64) 3) = true ∧
      step (inFlight (hashed twoWords 0x0000005F0000005F#64) 3) = .next t ∧ t.status.result = true :=
  ⟨_, by decide, rfl, by decide⟩

/-- A step that accepts and one that stays busy (BusyFromAcceptanceToCompletion). -/
theorem witness_BusyFromAcceptanceToCompletion :
    (∃ t, step (hosted twoWords [HostProgram.wr 0x1000 .cmd 3]) = .next t ∧ t.status.busy = true) ∧
    (∃ t, step (hosted (waiting twoWords 3) [.poll]) = .next t ∧ t.status.busy = true) :=
  ⟨⟨_, rfl, by decide⟩, ⟨_, rfl, by decide⟩⟩

theorem witness_ConfiguredOnlyByAValidConfig :
    ∃ t, step (inFlight (sized blank 10 10) 1) = .next t ∧ t.status.configured = true := ⟨_, rfl, by decide⟩

/-- Each case of OverrunIsStickyUntilCleared: completion, reset, CMD write while busy, STATUS write, another input. -/
theorem witness_OverrunIsStickyUntilCleared :
    (∃ s t : State, engineTurn s = true ∧ step s = .next t) ∧
    (∃ (s t : State) (rest : List Input), engineTurn s = false ∧ s.inputs = .reset :: rest ∧ step s = .next t) ∧
    (∃ (s t : State) (a : Nat) (w : Width) (v : Word64) (rest : List Input), engineTurn s = false ∧
      s.inputs = .write a w v :: rest ∧ busTarget s.cfg.base a w = .slot .cmd ∧ s.status.busy = true ∧ step s = .next t) ∧
    (∃ (s t : State) (a : Nat) (w : Width) (v : Word64) (rest : List Input), engineTurn s = false ∧
      s.inputs = .write a w v :: rest ∧
      busTarget s.cfg.base a w = .slot .status ∧ step s = .next t) ∧
    (∃ (s t : State) (rest : List Input), engineTurn s = false ∧ s.inputs = .poll :: rest ∧ step s = .next t) :=
  ⟨⟨inFlight twoWords 0, _, by decide, rfl⟩,
   ⟨hosted (waiting twoWords 3) [.reset], _, _, by decide, rfl, rfl⟩,
   ⟨hosted (waiting twoWords 3) [.write 0x1008 .w32 2], _, _, _, _, _, by decide, rfl, by decide, by decide, rfl⟩,
   ⟨hosted twoWords [.write 0x100C .w32 8], _, _, _, _, _, by decide, rfl, by decide, rfl⟩,
   ⟨hosted twoWords [.poll], _, _, by decide, rfl, rfl⟩⟩

/-- v[3] = 1 and BUSY = 1; v[3] = 0 and BUSY = 0. -/
theorem witness_StatusWriteClearsOnlyOverrun :
    (∃ (s : State) (v : Word) (rest : List Input), engineTurn s = false ∧
      s.inputs = .write (s.cfg.base + 0x0C) .w32 (v.setWidth 64) :: rest ∧ v.getLsbD 3 = true ∧ s.status.busy = true) ∧
    (∃ (s : State) (v : Word) (rest : List Input), engineTurn s = false ∧
      s.inputs = .write (s.cfg.base + 0x0C) .w32 (v.setWidth 64) :: rest ∧ v.getLsbD 3 = false ∧ s.status.busy = false) :=
  ⟨⟨hosted (waiting twoWords 3) [.write 0x100C .w32 8], 8#32, [], by decide⟩,
   ⟨hosted twoWords [.write 0x100C .w32 0xFFFFFFF7], 0xFFFFFFF7#32, [], by decide⟩⟩

theorem witness_AcceptanceSamplesTheOperands :
    ∃ (s : State) (v : Word) (rest : List Input), s.status.busy = false ∧
      s.inputs = .write (s.cfg.base + 0x08) .w32 (v.setWidth 64) :: rest :=
  ⟨hosted twoWords [.write 0x1008 .w32 0xFFFFFFFF], 0xFFFFFFFF#32, [], by decide⟩

theorem witness_BusyDropsCommandWrites :
    ∃ (s : State) (v : Word) (rest : List Input), s.status.busy = true ∧ engineTurn s = false ∧
      s.inputs = .write (s.cfg.base + 0x08) .w32 (v.setWidth 64) :: rest :=
  ⟨hosted (waiting twoWords 3) [.write 0x1008 .w32 2], 2, [], by decide⟩

/-- Every register's row, for RegisterReadsReturnTheMap; the last clause of ReadOnlyRegistersIgnoreWrites too. -/
theorem witness_RegisterReadsReturnTheMap : ∀ j, j < 16 →
    engineTurn (hosted twoWords [.read (0x1000 + 4 * j) .w32]) = false ∧
    (hosted twoWords [.read (0x1000 + 4 * j) .w32]).inputs = [.read (twoWords.cfg.base + 4 * j) .w32] ∧
    4 * j < 64 ∧ 4 * j % 4 = 0 := by decide

theorem witness_ReadOnlyRegistersIgnoreWrites : ∀ off ∈ [0x00, 0x04, 0x24, 0x28, 0x2C, 0x30, 0x34, 0x38, 0x3C, 0x0C],
    engineTurn (hosted (waiting twoWords 3) [.write (0x1000 + off) .w32 0xFFFFFFFF]) = false ∧
    (hosted (waiting twoWords 3) [.write (0x1000 + off) .w32 0xFFFFFFFF]).inputs =
      [.write (twoWords.cfg.base + off) .w32 0xFFFFFFFF] := by decide

/-- Each of the five registers, while a command is in flight. -/
theorem witness_OperandRegistersStoreTheValue : ∀ off ∈ [0x10, 0x14, 0x18, 0x1C, 0x20],
    engineTurn (hosted (waiting twoWords 3) [.write (0x1000 + off) .w32 ((6#32).setWidth 64)]) = false ∧
    (hosted (waiting twoWords 3) [.write (0x1000 + off) .w32 ((6#32).setWidth 64)]).inputs =
      [.write (twoWords.cfg.base + off) .w32 ((6#32).setWidth 64)] := by decide

/-- Both clauses, at the ends of the window. -/
theorem witness_WrongWidthOrAlignmentFaults : ∀ c ∈ [(0, Width.w32), (60, .w32), (0, .w8), (63, .w8), (62, .w32), (60, .w64)],
    engineTurn (hosted twoWords [.read (0x1000 + c.1) c.2]) = false ∧ c.1 < 64 ∧
    (hosted twoWords [.read (0x1000 + c.1) c.2]).inputs = [.read (twoWords.cfg.base + c.1) c.2] := by decide

/-- Just below and just above the window. -/
theorem witness_AccessOutsideTheWindowIsIgnored : ∀ c ∈ [(0x0FF8, Width.w64), (0x0FFF, .w8), (0x1040, .w32)],
    engineTurn (hosted twoWords [.write c.1 c.2 1]) = false ∧
    (hosted twoWords [.write c.1 c.2 1]).inputs = [.write c.1 c.2 1] ∧
    (c.1 + c.2.bytes ≤ twoWords.cfg.base ∨ twoWords.cfg.base + 64 ≤ c.1) := by decide

theorem witness_OldResultsShowUntilCompletion :
    (∃ s t : State, step s = .next t ∧ engineTurn s = false ∧ (∀ rest, s.inputs ≠ .reset :: rest) ∧ s.status.busy = true) ∧
    (∃ s t : State, step s = .next t ∧ engineTurn s = true) :=
  ⟨⟨hosted (waiting twoWords 3) [.poll], _, rfl, by decide, nofun, by decide⟩,
   ⟨inFlight twoWords 3, _, rfl, by decide⟩⟩

/-- For ResetGivesEveryRegisterItsValue and ResetAbandonsTheCommand. -/
theorem witness_ResetAbandonsTheCommand :
    ∃ (s : State) (rest : List Input), s.status.busy = true ∧ engineTurn s = false ∧ s.inputs = .reset :: rest :=
  ⟨hosted (waiting twoWords 3) [.reset], [], by decide⟩

theorem witness_ResetMeetsTheInvariant : blank.cfg.wellFormed = true := by decide

/-- A CONFIG that replaces the filter, from a state that meets the invariant. -/
theorem witness_EveryStepKeepsTheInvariant :
    ∃ s t : State, Inv s ∧ step s = .next t ∧ engineTurn s = true ∧ decode s.latch.raw = .command .config := by
  refine ⟨inFlight (sized twoWords 1 1) 1, _, ?_, rfl, by decide, by decide⟩
  exact ⟨inv_twoWords.cfg_ok, inv_twoWords.array_wf, inv_twoWords.in_storage, inv_twoWords.no_filter,
    fun h => ⟨(inv_twoWords.filter h).sized, (inv_twoWords.filter h).written, (inv_twoWords.filter h).padding⟩⟩

theorem witness_InvariantBoundsMAndK :
    (∃ s : State, Inv s ∧ s.status.configured = true) ∧ (∃ s : State, Inv s ∧ s.status.configured = false) :=
  ⟨⟨twoWords, inv_twoWords, by decide⟩, ⟨blank, inv_blank, by decide⟩⟩

/-- The second clause: all probed bits are set, by another hash. -/
theorem witness_InsertIsIdempotent :
    let s := inFlight (hashed twoWords 0x0000005F0000005F#64) 2
    s.status.configured = true ∧ 1 ≤ s.m ∧
      ∀ p, p ∈ probes s.latch.h s.m s.k.toNat → s.array.bitRead p = true := by decide

/-- The first clause of BitsOnlyGrowInALifetime, with a bit that is set. -/
theorem witness_BitsOnlyGrowInALifetime :
    ∃ s t : State, lifetimeStep s t ∧ s.array.bitRead 50 = true ∧ engineTurn s = true ∧
      decode s.latch.raw = .command (.insert false) :=
  ⟨inFlight (hashed twoWords 0x0000000500000003#64) 2, _, ⟨rfl, by decide⟩, by decide, by decide, by decide⟩

/-- The second clause, over an INSERT of another hash. -/
theorem witness_AnswersLater :
    ∃ s t : State, Answers s 0x0000005F0000005F#64 true ∧ sameLifetime s t ∧ s ≠ t :=
  ⟨inFlight (hashed twoWords 0x0000000500000003#64) 2, _, ⟨_, rfl, by decide, by decide⟩,
    .single ⟨rfl, by decide⟩, by decide⟩

/-- An INSERT in flight, whose host then asks for the same hash. -/
def insertThenQuery : State :=
  hosted (inFlight (hashed twoWords 0x0000000500000003#64) 2) [HostProgram.wr 0x1000 .cmd 3]

/-- `insertThenQuery` after its INSERT has completed. -/
def inserted : State :=
  complete { insertThenQuery with
    array := setProbes 2 insertThenQuery.array (latchedProbes insertThenQuery) } 0x2#4 .ok false

/-- And with the QUERY accepted; its latency is a free value. -/
def queried : State := acceptCommand (takeInput inserted []) 3

/-- An INSERT completes, the host's next input is the QUERY of the same hash, and it completes. -/
theorem witness_NoFalseNegatives :
    ∃ s t u v : State, engineTurn s = true ∧ decode s.latch.raw = .command (.insert false) ∧ step s = .next t ∧
      t.status.err = .ok ∧ sameLifetime t u ∧ engineTurn u = true ∧ decode u.latch.raw = .command (.query false) ∧
      u.latch.h = s.latch.h ∧ step u = .next v ∧ v.status.err = .ok := by
  have hu : engineTurn queried = true := by
    have h : queried.inputs.isEmpty = true := rfl
    rw [engineTurn, h, Bool.or_true]
    rfl
  exact ⟨insertThenQuery, inserted, queried, _, by decide, by decide, rfl, by decide, .single ⟨rfl, by decide⟩, hu,
    by decide, by decide, (step_engine hu).trans rfl, by decide⟩

theorem witness_FalsePositivesExist :
    let s := inFlight (hashed (filter 64 1 [(0, 0)]) 0x0000000500000000#64) 2
    s.status.configured = true ∧ s.m = 64 ∧ s.k = 1#32 ∧ s.array.readWord 0 = 0 ∧
      s.latch.h = 0x0000000500000000#64 := by decide

/-- Two INSERTs in the two orders, with a QUERY among one of the sequences. -/
theorem witness_ArrayIndependentOfInsertOrder :
    let l (h : Word64) : Latch := { State.emptyLatch with h := h }
    let cs : List (Instr × Latch) := [(.insert false, l 1), (.query false, l 1), (.insert false, l 2)]
    let ds : List (Instr × Latch) := [(.insert false, l 2), (.insert false, l 1)]
    twoWords.status.configured = true ∧ (∀ c, c ∈ cs ++ ds → c.1 ≠ .config) ∧
      (insertedHashes cs).Perm (insertedHashes ds) := by decide

theorem witness_LanesActLikeSequentialProbes :
    1 ≤ (1 : Nat) ∧ 1 ≤ (64 : Nat) ∧ twoWords.status.configured = true ∧ 1 ≤ twoWords.m := by decide

/-- The last probe of 7 on 2 lanes: beat 3, lane 0, lane 1 idle. -/
theorem witness_BeatsHoldTheProbesInOrder : 1 ≤ (2 : Nat) ∧ 0 < (2 : Nat) ∧ 3 * 2 + 0 < 7 ∧
    beats 2 (probes 0xFFFFFFFFFFFFFFFF#64 100 7) = [[95, 90], [85, 80], [75, 70], [65]] := by decide

/-- Two machines with other lanes and other words outside the filter. -/
theorem witness_EnginesThatLookAlikeStayAlike :
    ∃ s s' : State, SameVisible s s' ∧ 1 ≤ s.cfg.kLanes ∧ 1 ≤ s'.cfg.kLanes ∧ (s.status.configured = true → 1 ≤ s.m) ∧
      s.status.configured = true ∧ s.cfg.kLanes ≠ s'.cfg.kLanes ∧ s.array ≠ s'.array :=
  ⟨twoWords,
   { twoWords with
     cfg := { twoWords.cfg with kLanes := 8 }
     array := { gen := 3, cells := [(0, 0x4000000000000), (1, 0x84210842), (2, 5)] } },
   ⟨rfl, rfl, rfl, rfl, rfl, rfl, rfl, rfl, rfl, rfl, rfl, rfl, rfl, fun _ => by
      have : twoWords.usedWords = 2 := by decide
      rw [this]; decide⟩,
   by decide, by decide, fun _ => by decide, by decide, by decide, by decide⟩

/-- Also for ProbesLieInTheUsedWords: the largest i of its last clause, and the corners of ProbeSequenceCornerCases. -/
theorem witness_IncrementalProbesAgree : 1 ≤ (1 : Nat) ∧ (1 : Nat) < 2 ^ 38 ∧ 1 ≤ 2 ^ 38 - 1 ∧ (176 : Nat) < 177 ∧
    hashLower 0x0000009600000064#64 % 100 = 0 ∧ 64 = 2 ^ 6 := by decide

/-- The first filter bit and the last. -/
theorem witness_ReadbackShowsEveryFilterBit : ∀ p ∈ [0, 99],
    twoWords.status.configured = true ∧ p < twoWords.m ∧
    (inFlight (indexed twoWords (.ofNat 32 (p / 64))) 4).latch.widx.toNat = p / 64 := by decide

/-- On a machine that already has a filter. -/
theorem witness_FreshFilterAnswersNo :
    ∃ t, exec .config (inFlight (sized twoWords 10 10) 1) = .next t ∧ t.status.err = .ok := ⟨_, rfl, by decide⟩

/-- Also for the first clause of HostInContractNeverStops. -/
theorem witness_AcceptedCommandsComplete :
    let s := hosted (waiting twoWords 2) [.poll, HostProgram.wr 0x1000 .cmd 3, .reset, .read 0x1040 .w8]
    s.status.busy = true ∧ hostAllowed s = true := by decide

theorem witness_PollRepeatsWhileBusy :
    ∀ s ∈ [hosted twoWords [.poll, .reset], hosted (waiting twoWords 2) [.poll, .reset]],
    engineTurn s = false ∧ s.inputs = [.poll, .reset] := by decide

theorem witness_CommandWriteThenPollRunsTheCommand :
    let s := hosted (hashed twoWords 5) [HostProgram.wr 0x1000 .cmd 2, .poll, HostProgram.rd 0x1000 .status]
    s.status.busy = false ∧
      s.inputs = HostProgram.wr s.cfg.base .cmd 2 :: .poll :: [HostProgram.rd 0x1000 .status] := by decide

theorem witness_IdleMachineKeepsItsState : twoWords.status.busy = false ∧ twoWords.inputs = [] := by decide

end Sys2Proof.Tests
end

section
/-! PROOFS. The state family (10_state.md): what STATUS shows, what a completion and a host input can do to it, and the invariant
of R43. -/

namespace Sys2Proof.Machine

/-! ## Completions -/

/-- All that a completion can do (70_reset_and_hazards.md R129): a failure writes STATUS only (60_exceptions.md R110), and each
command has one way to succeed. -/
inductive Completion (s : State) : State → Prop
  | failed (op : BitVec 4) (err : ErrCode) (hop : fieldOp s.latch.raw = op) (herr : err ≠ .ok)
      (hinvalid : decode s.latch.raw = .command .config → configValid s.latch.n s.latch.b s.cfg.capBits = false) :
      Completion s (raiseError s op err)
  | config (hdecode : decode s.latch.raw = .command .config)
      (hvalid : configValid s.latch.n s.latch.b s.cfg.capBits = true) :
      Completion s (complete (constructFilter s s.latch.n s.latch.b) 0x1#4 .ok false)
  | insert (hdecode : decode s.latch.raw = .command (.insert false)) (hconf : s.status.configured = true) :
      Completion s (complete { s with array := setProbes (laneCount s.cfg) s.array (latchedProbes s) } 0x2#4 .ok false)
  | query (hdecode : decode s.latch.raw = .command (.query false)) (hconf : s.status.configured = true) :
      Completion s (complete s 0x3#4 .ok ((latchedProbes s).all fun p => s.array.bitRead p))
  | readw (hdecode : decode s.latch.raw = .command .readw) (hconf : s.status.configured = true) :
      Completion s (complete { s with
          dataLo := lowWord (s.array.readWord s.latch.w)
          dataHi := highWord (s.array.readWord s.latch.w) } 0x4#4 .ok false)

/-- LASTOP may be written with the OP of the command's row (log 14). -/
theorem fieldOp_of_decode {raw : Word} {i : Instr} (h : decode raw = .command i) : fieldOp raw = opOf i := by
  obtain ⟨-, -, hop, -⟩ := decode_command h
  exact hop

theorem exec_completion {i : Instr} {s t : State} (hd : decode s.latch.raw = .command i) (h : exec i s = .next t) :
    Completion s t := by
  have hfail : ∀ err, err ≠ .ok → i ≠ .config → Completion s (raiseError s (opOf i) err) := fun err herr hi =>
    .failed _ err (fieldOp_of_decode hd) herr fun hc => absurd (Decoded.command.inj (hd.symm.trans hc)) hi
  cases i with
  | config =>
    rcases execConfig_cases s with ⟨hv, e⟩ | ⟨hv, e⟩ <;> obtain rfl := Host.Outcome.next.inj (h.symm.trans e)
    · exact .config hd hv
    · exact .failed _ .invalidConfiguration (fieldOp_of_decode hd) nofun fun _ => hv
  | insert ie =>
    rcases execInsert_cases ie s with ⟨-, e⟩ | ⟨-, -, e⟩ | ⟨hc, rfl, e⟩ <;>
      obtain rfl := Host.Outcome.next.inj (h.symm.trans e)
    · exact hfail _ nofun nofun
    · exact hfail _ nofun nofun
    · exact .insert hd hc
  | query ie =>
    rcases execQuery_cases ie s with ⟨-, e⟩ | ⟨-, -, e⟩ | ⟨hc, rfl, e⟩ <;>
      obtain rfl := Host.Outcome.next.inj (h.symm.trans e)
    · exact hfail _ nofun nofun
    · exact hfail _ nofun nofun
    · exact .query hd hc
  | readw =>
    rcases execReadw_cases s with ⟨-, e⟩ | ⟨-, -, e⟩ | ⟨hc, -, e⟩ <;>
      obtain rfl := Host.Outcome.next.inj (h.symm.trans e)
    · exact hfail _ nofun nofun
    · exact hfail _ nofun nofun
    · exact .readw hd hc

theorem engineMove_completion {s t : State} (h : engineMove s = .next t) : Completion s t := by
  rcases engineMove_cases s with ⟨i, hd, e⟩ | ⟨why, hd, e⟩
  · exact exec_completion hd (e ▸ h)
  · obtain rfl := Host.Outcome.next.inj (h.symm.trans e)
    exact .failed _ .illegalCommand rfl nofun fun hc => nomatch hd.symm.trans hc

theorem step_completion {s : State} (h : engineTurn s = true) : ∃ t, step s = .next t ∧ Completion s t := by
  obtain ⟨t, ht⟩ := engineMove_next s
  exact ⟨t, (step_engine h).trans ht, engineMove_completion ht⟩

/-- `covers` speaks of the latched probes when the hash is the latched one. -/
theorem all_latchedProbes_iff_covers (s : State) :
    ((latchedProbes s).all fun p => s.array.bitRead p) = true ↔ covers s s.latch.h := by
  simp only [List.all_eq_true, latchedProbes, covers, mem_probes]
  exact ⟨fun h i hi => h _ ⟨i, hi, rfl⟩, fun h p ⟨i, hi, hp⟩ => hp ▸ h i hi⟩

theorem Completion.lastop {s t : State} (h : Completion s t) : t.status.lastop = fieldOp s.latch.raw := by
  cases h with
  | failed _ _ hop => exact hop.symm
  | config hd => exact (fieldOp_of_decode hd).symm
  | insert hd => exact (fieldOp_of_decode hd).symm
  | query hd => exact (fieldOp_of_decode hd).symm
  | readw hd => exact (fieldOp_of_decode hd).symm

theorem Completion.busy {s t : State} (h : Completion s t) : t.status.busy = false := by
  cases h <;> rfl

theorem Completion.overrun {s t : State} (h : Completion s t) : t.status.overrun = s.status.overrun := by
  cases h <;> rfl

theorem Completion.result_iff {s t : State} (h : Completion s t) :
    t.status.result = true ↔
      (∃ ie, decode s.latch.raw = .command (.query ie)) ∧ t.status.err = .ok ∧ covers s s.latch.h := by
  cases h with
  | failed _ _ _ herr _ => simp [herr]
  | config hd _ => simp [hd]
  | insert hd _ => simp [hd]
  | query hd _ => simp [hd, all_latchedProbes_iff_covers, -List.all_eq_true]
  | readw hd _ => simp [hd]

theorem Completion.configured_iff {s t : State} (h : Completion s t) :
    t.status.configured = true ↔
      (decode s.latch.raw = .command .config ∧ configValid s.latch.n s.latch.b s.cfg.capBits = true) ∨
      s.status.configured = true := by
  cases h with
  | failed _ _ _ _ hinvalid => simpa using fun hd hv => absurd hv (by simp [hinvalid hd])
  | config hd hv => simp [hd, hv]
  | insert _ hc => simp [hc]
  | query _ hc => simp [hc]
  | readw _ hc => simp [hc]

/-! ## Host inputs -/

/-- What no host input but a reset changes (10_state.md R31, 70_reset_and_hazards.md R131, R132): the fields that completions
write, and the latch of a command in flight. -/
structure HostFrame (s t : State) : Prop where
  cfg : t.cfg = s.cfg
  result : t.status.result = s.status.result
  err : t.status.err = s.status.err
  lastop : t.status.lastop = s.status.lastop
  configured : t.status.configured = s.status.configured
  dataLo : t.dataLo = s.dataLo
  dataHi : t.dataHi = s.dataHi
  mLo : t.mLo = s.mLo
  mHi : t.mHi = s.mHi
  k : t.k = s.k
  array : t.array = s.array
  latch : s.status.busy = true → t.latch = s.latch

theorem HostFrame.refl (s : State) : HostFrame s s := by constructor <;> simp

theorem observe_frame (s : State) (v : Word) : HostFrame s (observe s v) := by constructor <;> simp

theorem pollOnce_frame (s : State) : HostFrame s (pollOnce s) := by
  rw [pollOnce_eq]
  split <;> constructor <;> simp

theorem submitCommand_frame (s : State) (raw : Word) : HostFrame s (submitCommand s raw) := by
  cases hb : s.status.busy
  · rw [submitCommand_idle hb]
    constructor <;> simp [hb]
  · rw [submitCommand_busy hb]
    constructor <;> simp

theorem writeSlot_frame (s : State) (v : Word) (sl : Slot) : HostFrame s (writeSlot s v sl) := by
  cases sl with
  | cmd => exact submitCommand_frame s v
  | _ => constructor <;> simp [writeSlot]

theorem hostInput_frame {s t : State} {x : Input} (h : hostInput s x = .next t) (hx : x ≠ .reset) : HostFrame s t := by
  rcases hostInput_cases h with ⟨_, _, v, sl, -, -, rfl⟩ | ⟨_, _, _, -, -, rfl⟩ | ⟨_, _, sl, -, -, rfl⟩ |
    ⟨_, _, -, -, rfl⟩ | ⟨-, rfl⟩ | ⟨hr, -⟩
  · exact writeSlot_frame s _ sl
  · exact .refl _
  · exact observe_frame s _
  · exact .refl _
  · exact pollOnce_frame s
  · exact absurd hr hx

/-- Taking an input off the queue touches nothing of the frame. -/
theorem HostFrame.of_takeInput {s t : State} {rest : List Input} (h : HostFrame (takeInput s rest) t) : HostFrame s t :=
  ⟨h.cfg, h.result, h.err, h.lastop, h.configured, h.dataLo, h.dataHi, h.mLo, h.mHi, h.k, h.array, h.latch⟩

/-- All that a step can do, as later proofs need it: a completion, a reset, or a host's move inside the frame. -/
theorem step_kinds {s t : State} (h : step s = .next t) :
    (engineTurn s = true ∧ Completion s t) ∨
    (engineTurn s = false ∧ ∃ rest, s.inputs = .reset :: rest ∧ t = resetMachine (takeInput s rest)) ∨
    (engineTurn s = false ∧ (∀ rest, s.inputs ≠ .reset :: rest) ∧ HostFrame s t) := by
  rcases step_cases s with ⟨he, e⟩ | ⟨he, hi, e⟩ | ⟨x, rest, he, hi, e⟩
  · exact .inl ⟨he, engineMove_completion (e ▸ h)⟩
  · obtain rfl := Host.Outcome.next.inj (h.symm.trans e)
    exact .inr (.inr ⟨he, by simp [hi], .refl _⟩)
  · by_cases hx : x = .reset
    · subst hx
      exact .inr (.inl ⟨he, rest, hi, Host.Outcome.next.inj (h.symm.trans e)⟩)
    · exact .inr (.inr ⟨he, by simp [hi, hx], (hostInput_frame (e ▸ h) hx).of_takeInput⟩)

/-! ### BUSY and OVERRUN under a host input -/

theorem submitCommand_sets_busy (s : State) (raw : Word) : (submitCommand s raw).status.busy = true := by
  cases hb : s.status.busy
  · simp [submitCommand_idle hb]
  · simp [submitCommand_busy hb, hb]

theorem submitCommand_overrun (s : State) (raw : Word) :
    (submitCommand s raw).status.overrun = (s.status.overrun || s.status.busy) := by
  cases hb : s.status.busy
  · simp [submitCommand_idle hb]
  · simp [submitCommand_busy hb]

theorem writeSlot_busy_iff (s : State) (v : Word) (sl : Slot) :
    (writeSlot s v sl).status.busy = true ↔ s.status.busy = true ∨ sl = .cmd := by
  cases sl with
  | cmd => simp [writeSlot, submitCommand_sets_busy]
  | _ => simp [writeSlot]

theorem writeSlot_overrun (s : State) (v : Word) (sl : Slot) :
    (writeSlot s v sl).status.overrun =
      if sl = .cmd then s.status.overrun || s.status.busy
      else if sl = .status then s.status.overrun && !v.getLsbD 3
      else s.status.overrun := by
  cases sl with
  | cmd => simp [writeSlot, submitCommand_overrun]
  | _ => simp [writeSlot]

/-- BUSY after a bus write: only a CMD write sets it (10_state.md R25). -/
theorem busWrite_busy_iff {s t : State} {addr : Nat} {width : Width} {v : Word64} (h : busWrite s addr width v = .next t) :
    t.status.busy = true ↔ s.status.busy = true ∨ busTarget s.cfg.base addr width = .slot .cmd := by
  rcases busWrite_cases s addr width v with ⟨sl, hs, e⟩ | ⟨hs, e⟩ | ⟨-, e⟩
  · obtain rfl := Host.Outcome.next.inj (h.symm.trans e)
    simp [writeSlot_busy_iff, hs]
  · obtain rfl := Host.Outcome.next.inj (h.symm.trans e)
    simp [hs]
  · exact absurd (h.symm.trans e) nofun

/-- OVERRUN after a bus write (10_state.md R28, R32). -/
theorem busWrite_overrun {s t : State} {addr : Nat} {width : Width} {v : Word64} (h : busWrite s addr width v = .next t) :
    t.status.overrun =
      if busTarget s.cfg.base addr width = .slot .cmd then s.status.overrun || s.status.busy
      else if busTarget s.cfg.base addr width = .slot .status then s.status.overrun && !v.getLsbD 3
      else s.status.overrun := by
  rcases busWrite_cases s addr width v with ⟨sl, hs, e⟩ | ⟨hs, e⟩ | ⟨-, e⟩
  · obtain rfl := Host.Outcome.next.inj (h.symm.trans e)
    simp [writeSlot_overrun, hs]
  · obtain rfl := Host.Outcome.next.inj (h.symm.trans e)
    simp [hs]
  · exact absurd (h.symm.trans e) nofun

/-- No read changes STATUS (10_state.md R41). -/
theorem busRead_status {s t : State} {addr : Nat} {width : Width} (h : busRead s addr width = .next t) :
    t.status = s.status := by
  rcases busRead_cases s addr width with ⟨sl, -, e⟩ | ⟨-, e⟩ | ⟨-, e⟩
  · obtain rfl := Host.Outcome.next.inj (h.symm.trans e)
    rfl
  · obtain rfl := Host.Outcome.next.inj (h.symm.trans e)
    rfl
  · exact absurd (h.symm.trans e) nofun

/-! ## Accesses at an offset of the register window -/

/-- A 32-bit read at a slot's offset gives the slot's value and does nothing else (20_memory.md R51). -/
theorem step_read_slot {s : State} {rest : List Input} (sl : Slot) (he : engineTurn s = false)
    (hi : s.inputs = .read (s.cfg.base + sl.offset) .w32 :: rest) :
    step s = .next { s with inputs := rest, wait := s.wait - 1, seen := readSlot s sl :: s.seen } := by
  rw [step_host he, hostMove_cons hi, hostInput, busRead, takeInput_cfg, busTarget_slot]
  cases sl <;> rfl

/-- A 32-bit write at a slot's offset is a write of the slot. -/
theorem step_write_slot {s : State} {rest : List Input} {v : Word64} (sl : Slot) (he : engineTurn s = false)
    (hi : s.inputs = .write (s.cfg.base + sl.offset) .w32 v :: rest) :
    step s = .next (writeSlot (takeInput s rest) (v.setWidth 32) sl) := by
  rw [step_host he, hostMove_cons hi, hostInput, busWrite, takeInput_cfg, busTarget_slot]

/-- The same for a 32-bit value carried by the 64-bit bus. -/
theorem step_write_slot_word {s : State} {rest : List Input} {v : Word} (sl : Slot) (he : engineTurn s = false)
    (hi : s.inputs = .write (s.cfg.base + sl.offset) .w32 (v.setWidth 64) :: rest) :
    step s = .next (writeSlot (takeInput s rest) v sl) := by
  have hv : (v.setWidth 64).setWidth 32 = v := by simp
  rw [step_write_slot sl he hi, hv]

/-- The aligned offsets of the window are the sixteen slots' (10_state.md R20). -/
theorem exists_slot_offset {off : Nat} (hlt : off < 64) (hal : off % 4 = 0) : ∃ sl : Slot, sl.offset = off := by
  have hall : ∀ j < 16, ∃ sl ∈ slotList, sl.offset = 4 * j := by decide
  obtain ⟨sl, -, h⟩ := hall (off / 4) (by omega)
  exact ⟨sl, by omega⟩

/-- The slots that ignore writes (10_state.md R40). -/
def readOnlySlots : List Slot := [.id, .capacity, .dataLo, .dataHi, .mLo, .mHi, .k, .reserved38, .reserved3C]

theorem writeSlot_readOnly {sl : Slot} (h : sl ∈ readOnlySlots) (s : State) (v : Word) : writeSlot s v sl = s := by
  cases sl with
  | cmd | status | maxItems | bitsPerItem | hashLo | hashHi | wordIndex => exact absurd h (by decide)
  | _ => rfl

theorem readSlot_reserved {sl : Slot} (h : sl.offset = 0x38 ∨ sl.offset = 0x3C) (s : State) : readSlot s sl = 0 := by
  cases sl with
  | reserved38 | reserved3C => rfl
  | _ => exact absurd h (by decide)

/-! ## The STATUS word -/

/-- Bit by bit, the format of STATUS (10_state.md R24). -/
theorem Status.word_getLsbD (st : Status) (j : Nat) :
    st.word.getLsbD j =
      if j = 0 then st.busy else if j = 1 then st.configured else if j = 2 then st.result else if j = 3 then st.overrun
      else if j < 8 then st.err.code.getLsbD (j - 4) else if j < 12 then st.lastop.getLsbD (j - 8) else false := by
  simp only [Status.word, BitVec.getLsbD_append, BitVec.getLsbD_ofBool, BitVec.getLsbD_zero]
  match j with
  | 0 | 1 | 2 | 3 => rfl
  | n + 4 =>
    have herr : n + 4 < 8 ↔ n < 4 := by omega
    have hlastop : n + 4 < 12 ↔ n - 4 < 4 := by omega
    simp [-BitVec.getLsbD_eq_getElem, herr, hlastop]

theorem Status.word_err (st : Status) : st.word.extractLsb' 4 4 = st.err.code := by
  apply BitVec.eq_of_getLsbD_eq
  intro i hi
  have h8 : 4 + i < 8 := by omega
  have hlow : 4 + i ≠ 1 ∧ 4 + i ≠ 2 ∧ 4 + i ≠ 3 := by omega
  simp [Status.word_getLsbD, hi, h8, hlow]

theorem Status.word_lastop (st : Status) : st.word.extractLsb' 8 4 = st.lastop := by
  apply BitVec.eq_of_getLsbD_eq
  intro i hi
  have h12 : 8 + i < 12 := by omega
  have hlow : 8 + i ≠ 1 ∧ 8 + i ≠ 2 ∧ 8 + i ≠ 3 := by omega
  simp [Status.word_getLsbD, hi, h12, hlow]

theorem Status.word_reserved (st : Status) : st.word.extractLsb' 12 20 = 0#20 := by
  apply BitVec.eq_of_getLsbD_eq
  intro i hi
  have hlow : 12 + i ≠ 1 ∧ 12 + i ≠ 2 ∧ 12 + i ≠ 3 ∧ ¬12 + i < 8 := by omega
  simp [Status.word_getLsbD, hlow]

theorem ErrCode.code_le (err : ErrCode) : err.code.toNat ≤ 5 := by cases err <;> decide

/-! ## The invariant -/

theorem joinWords_toNat (hi lo : Word) : (joinWords hi lo).toNat = hi.toNat * 2 ^ 32 + lo.toNat := by
  rw [joinWords, BitVec.toNat_append, ← Nat.shiftLeft_add_eq_or_of_lt lo.isLt, Nat.shiftLeft_eq]

/-- The invariant at a fresh reset, for the parameters of any BFE (70_reset_and_hazards.md R122, R123). -/
theorem Inv.of_blank {s : State} (hcfg : s.cfg.wellFormed = true) (hconf : s.status.configured = false)
    (hsize : s.mLo = 0 ∧ s.mHi = 0 ∧ s.k = 0) (hcells : s.array.cells = []) : Inv s where
  cfg_ok := hcfg
  array_wf := by simp [BitArray.wf, hcells, cellsRising]
  in_storage w hw := by simp [BitArray.listed, hcells, lookupCell] at hw
  no_filter _ := hsize
  filter h := by simp [hconf] at h

/-- m of a state with a filter lies within the storage (40_configure.md R74). -/
theorem FilterOk.m_bounds {s : State} (h : FilterOk s) : 1 ≤ s.m ∧ s.m ≤ s.cfg.capBits := by
  obtain ⟨n, b, hv, hm, -⟩ := h.sized
  obtain ⟨hpos, -, hcap⟩ := size_of_configValid hv
  exact hm ▸ ⟨hpos, hcap⟩

/-- k of a state with a filter is an entry of the table (10_state.md R39). -/
theorem FilterOk.k_bounds {s : State} (h : FilterOk s) : 1 ≤ s.k.toNat ∧ s.k.toNat ≤ 177 := by
  obtain ⟨n, b, hv, -, hk⟩ := h.sized
  rw [State.probeCount] at hk
  exact hk ▸ ktab_bounds hv

theorem capBits_lt (c : Params) : c.capBits < 2 ^ 38 := by
  have := c.capWords.isLt
  rw [Params.capBits]
  omega

theorem Inv.m_eq_zero {s : State} (h : Inv s) (hconf : s.status.configured = false) : s.m = 0 := by
  obtain ⟨hlo, hhi, -⟩ := h.no_filter hconf
  simp [State.m, joinWords_toNat, hlo, hhi]

theorem Inv.m_lt {s : State} (h : Inv s) : s.m < 2 ^ 38 := by
  cases hconf : s.status.configured
  · simp [h.m_eq_zero hconf]
  · exact (h.filter hconf).m_bounds.2.trans_lt (capBits_lt s.cfg)

/-- The invariant speaks of these six fields only. -/
theorem Inv.congr {s t : State} (h : Inv s) (hcfg : t.cfg = s.cfg)
    (hconf : t.status.configured = s.status.configured) (hlo : t.mLo = s.mLo) (hhi : t.mHi = s.mHi) (hk : t.k = s.k)
    (harray : t.array = s.array) : Inv t := by
  have hm : t.m = s.m := by rw [State.m, State.m, hlo, hhi]
  have hw : t.usedWords = s.usedWords := by rw [State.usedWords, State.usedWords, hm]
  have hc : t.probeCount = s.probeCount := by rw [State.probeCount, State.probeCount, hk]
  obtain ⟨hcfg_ok, hwf, hstore, hnone, hfilter⟩ := h
  refine ⟨hcfg ▸ hcfg_ok, harray ▸ hwf, by rwa [harray, hcfg], by rwa [hconf, hlo, hhi, hk], fun ht => ?_⟩
  obtain ⟨hsized, hwritten, hpadding⟩ := hfilter (hconf ▸ ht)
  exact ⟨by rwa [hcfg, hm, hc], by rwa [hw, harray], by rwa [hm, hw, harray]⟩

/-- A filter within CAP_BITS lies in CAP_WORDS words (10_state.md R42). -/
theorem wordsFor_le_capWords {c : Params} {m : Nat} (h : m ≤ c.capBits) : wordsFor m ≤ c.capWords.toNat := by
  rw [Params.capBits] at h
  rw [wordsFor]
  omega

theorem div_lt_wordsFor {m p : Nat} (h : p < m) : p / 64 < wordsFor m := by
  rw [wordsFor]
  omega

theorem lt_of_mem_latchedProbes {s : State} {p : Nat} (hm : 1 ≤ s.m) (h : p ∈ latchedProbes s) : p < s.m := by
  obtain ⟨i, -, rfl⟩ := mem_probes.1 h
  exact Nat.mod_lt _ hm

/-- A valid CONFIG establishes the filter's part of the invariant and keeps the rest (40_configure.md R72, R77). -/
theorem inv_constructFilter {s : State} {n b : Nat} (h : Inv s) (hv : configValid n b s.cfg.capBits = true) :
    Inv (constructFilter s n b) := by
  obtain ⟨-, h64, hcap⟩ := size_of_configValid hv
  have hm := constructFilter_m (s := s) h64
  have hw := constructFilter_usedWords (s := s) h64
  refine ⟨h.cfg_ok, BitArray.wf_zeroWords _ h.array_wf, fun w hl => ?_, nofun,
    fun _ => ⟨?_, fun w hlt => ?_, fun p _ hlt => ?_⟩⟩
  · rw [constructFilter_array, BitArray.listed_zeroWords, Bool.or_eq_true, decide_eq_true_eq] at hl
    rcases hl with hnew | hold
    · exact hnew.trans_le (wordsFor_le_capWords hcap)
    · exact h.in_storage w hold
  · exact ⟨n, b, hv, hm, constructFilter_probeCount hv⟩
  · rw [hw] at hlt
    simp [BitArray.listed_zeroWords, hlt]
  · rw [hw] at hlt
    have hzero : p / 64 < wordsFor (n * b) := by omega
    simp [BitArray.bitRead, BitArray.readWord_zeroWords, hzero]

/-- An INSERT sets bits below m only, in words that are written already (41_probe.md R82). -/
theorem inv_setProbes {s : State} (h : Inv s) (hconf : s.status.configured = true) :
    Inv { s with array := setProbes (laneCount s.cfg) s.array (latchedProbes s) } := by
  obtain ⟨hsized, hwritten, hpadding⟩ := h.filter hconf
  obtain ⟨hpos, hcap⟩ := (h.filter hconf).m_bounds
  have hl := one_le_laneCount s.cfg
  refine ⟨h.cfg_ok, wf_setProbes _ _ h.array_wf, fun w hlisted => ?_, h.no_filter,
    fun _ => ⟨hsized, fun w hlt => ?_, fun p hle hlt => ?_⟩⟩
  · rw [listed_setProbes hl, Bool.or_eq_true, decide_eq_true_eq, List.mem_map] at hlisted
    rcases hlisted with ⟨p, hp, rfl⟩ | hold
    · exact (div_lt_wordsFor (lt_of_mem_latchedProbes hpos hp)).trans_le (wordsFor_le_capWords hcap)
    · exact h.in_storage w hold
  · rw [listed_setProbes hl, hwritten w hlt, Bool.or_true]
  · have hprobe : p ∉ latchedProbes s := fun hp => absurd (lt_of_mem_latchedProbes hpos hp) hle.not_gt
    rw [bitRead_setProbes hl, hpadding p hle hlt]
    simpa using hprobe

theorem Completion.inv {s t : State} (hc : Completion s t) (h : Inv s) : Inv t := by
  cases hc with
  | failed => exact h.congr rfl rfl rfl rfl rfl rfl
  | config _ hv => exact (inv_constructFilter h hv).congr rfl rfl rfl rfl rfl rfl
  | insert _ hconf => exact (inv_setProbes h hconf).congr rfl rfl rfl rfl rfl rfl
  | query => exact h.congr rfl rfl rfl rfl rfl rfl
  | readw => exact h.congr rfl rfl rfl rfl rfl rfl

/-! ## The obligations -/

/-- Settles O38: a completion keeps the invariant by its cases, a reset gives it anew, and no other input touches its
fields. -/
theorem everyStepKeepsTheInvariant : Obligations.EveryStepKeepsTheInvariant := by
  intro s t h hstep
  rcases step_kinds hstep with ⟨-, hc⟩ | ⟨-, rest, -, rfl⟩ | ⟨-, -, hf⟩
  · exact hc.inv h
  · exact .of_blank h.cfg_ok rfl ⟨rfl, rfl, rfl⟩ rfl
  · exact h.congr hf.cfg hf.configured hf.mLo hf.mHi hf.k hf.array

/-- Settles O20: by the cases of a completion, each of which writes OP of the latched word. -/
theorem completionWritesLastop : Obligations.CompletionWritesLastop := by
  intro s hs
  obtain ⟨t, ht, hc⟩ := step_completion hs
  exact ⟨t, ht, hc.lastop⟩

/-- Settles O21: by the cases of a completion, of which only a successful QUERY answers. -/
theorem completionWritesResult : Obligations.CompletionWritesResult := by
  intro s hs
  obtain ⟨t, ht, hc⟩ := step_completion hs
  exact ⟨t, ht, hc.result_iff⟩

/-- Settles O22: the fields read off the format of the word. -/
theorem statusWordHasItsFields : Obligations.StatusWordHasItsFields := fun s =>
  ⟨s.status.word_getLsbD 0, s.status.word_getLsbD 1, s.status.word_getLsbD 2, s.status.word_getLsbD 3,
    s.status.word_err, s.status.err.code_le, s.status.word_lastop, s.status.word_reserved⟩

/-- Settles O23: by the inputs of the host, and by R129 for a completion. -/
theorem busyFromAcceptanceToCompletion : Obligations.BusyFromAcceptanceToCompletion := by
  intro s t h
  rcases step_cases s with ⟨he, e⟩ | ⟨he, hi, e⟩ | ⟨x, rest, he, hi, e⟩
  · have hb := (engineTurn_eq_true.1 he).1
    simp [he, hb, (engineMove_completion (e ▸ h)).busy]
  · obtain rfl := Host.Outcome.next.inj (h.symm.trans e)
    simp [he, hi]
  · have ht := e ▸ h
    cases x with
    | write addr width v =>
      have hb := busWrite_busy_iff (s := takeInput s rest) ht
      cases hs : s.status.busy <;> simp [hb, he, hi, hs]
    | read addr width => simp [busRead_status ht, he, hi]
    | poll =>
      obtain rfl := Host.Outcome.next.inj ht
      simp [he, hi]
    | reset =>
      obtain rfl := Host.Outcome.next.inj ht
      simp [hi, State.resetStatus]

/-- Settles O24: by the kinds of a step, of which only a completion or a reset changes CONFIGURED. -/
theorem configuredOnlyByAValidConfig : Obligations.ConfiguredOnlyByAValidConfig := by
  intro s t h
  rcases step_kinds h with ⟨he, hc⟩ | ⟨he, rest, hi, rfl⟩ | ⟨he, hr, hf⟩
  · simpa [he, and_assoc, Latch.n, Latch.b] using hc.configured_iff
  · simp [he, hi, State.resetStatus]
  · simp [he, hr, hf.configured]

/-- Settles O25: by the inputs of the host; a completion keeps OVERRUN. -/
theorem overrunIsStickyUntilCleared : Obligations.OverrunIsStickyUntilCleared := by
  intro s t h
  rcases step_cases s with ⟨he, e⟩ | ⟨he, hi, e⟩ | ⟨x, rest, he, hi, e⟩
  · simp only [he, (engineMove_completion (e ▸ h)).overrun]
  · obtain rfl := Host.Outcome.next.inj (h.symm.trans e)
    simp only [he, hi]
  · have ht := e ▸ h
    simp only [he, hi]
    cases x with
    | write addr width v => exact busWrite_overrun (s := takeInput s rest) ht
    | read addr width => simp [busRead_status ht]
    | poll =>
      obtain rfl := Host.Outcome.next.inj ht
      simp
    | reset =>
      obtain rfl := Host.Outcome.next.inj ht
      rfl

/-- Settles O29: the register map lists each slot's offset with its value. -/
theorem registerReadsReturnTheMap : Obligations.RegisterReadsReturnTheMap := by
  intro s off v rest he hi hmem
  have hmap : (off, v) ∈ slotList.map fun sl => (sl.offset, readSlot s sl) := hmem
  obtain ⟨sl, -, heq⟩ := List.mem_map.1 hmap
  obtain ⟨rfl, rfl⟩ := Prod.mk.inj heq
  exact step_read_slot sl he hi

/-- Settles O30: through the slots that ignore writes, the one write that STATUS has, and the reads of all slots. -/
theorem readOnlyRegistersIgnoreWrites : Obligations.ReadOnlyRegistersIgnoreWrites := by
  intro s off rest he
  refine ⟨fun v hmem hi => ?_, fun v hi => ⟨_, step_write_slot .status he hi, rfl⟩, fun hlt hal hi => ?_⟩
  · have hmap : off ∈ readOnlySlots.map Slot.offset := hmem
    obtain ⟨sl, hsl, rfl⟩ := List.mem_map.1 hmap
    rw [step_write_slot sl he hi, writeSlot_readOnly hsl]
    rfl
  · obtain ⟨sl, rfl⟩ := exists_slot_offset hlt hal
    exact ⟨_, _, step_read_slot sl he hi, rfl, fun h => readSlot_reserved h s⟩

/-- Settles O34: a host's move that is no reset stays inside the frame. -/
theorem oldResultsShowUntilCompletion : Obligations.OldResultsShowUntilCompletion := by
  intro s t h
  rcases step_kinds h with ⟨he, hc⟩ | ⟨he, rest, hi, -⟩ | ⟨he, -, hf⟩
  · exact ⟨fun hn => by simp [he] at hn, fun _ => hc.busy⟩
  · exact ⟨fun _ hr => absurd hi (hr rest), fun hn => by simp [he] at hn⟩
  · exact ⟨fun _ _ => ⟨hf.result, hf.err, hf.lastop, hf.configured, hf.dataLo, hf.dataHi, hf.mLo, hf.mHi, hf.k,
      hf.array, hf.latch⟩, fun hn => by simp [he] at hn⟩

/-- Settles O39: with a filter from its sizes and the table's bounds, without one from the zeros. -/
theorem invariantBoundsMAndK : Obligations.InvariantBoundsMAndK := by
  intro s h
  refine ⟨?_, fun hconf => ?_, fun hconf => ⟨h.m_eq_zero hconf, ?_⟩⟩
  · have hm := h.m_lt
    rw [State.m, joinWords_toNat] at hm
    omega
  · obtain ⟨hpos, hcap⟩ := (h.filter hconf).m_bounds
    exact ⟨hpos, hcap, (h.filter hconf).k_bounds⟩
  · obtain ⟨-, -, hk⟩ := h.no_filter hconf
    simp [hk]

/-- Settles O26: a write of the STATUS slot is `Status.written`. -/
theorem statusWriteClearsOnlyOverrun : Obligations.StatusWriteClearsOnlyOverrun := by
  intro s v rest he hi
  have hw : s.status.written v = { s.status with overrun := if v.getLsbD 3 then false else s.status.overrun } := by
    rw [Status.written]
    cases v.getLsbD 3 <;> simp
  rw [step_write_slot_word .status he hi, ← hw]
  rfl

/-- Settles O31: each of the five offsets is that of a slot that stores the value. -/
theorem operandRegistersStoreTheValue : Obligations.OperandRegistersStoreTheValue := fun _ _ _ he =>
  ⟨step_write_slot_word .maxItems he, step_write_slot_word .bitsPerItem he, step_write_slot_word .hashLo he,
    step_write_slot_word .hashHi he, step_write_slot_word .wordIndex he⟩

/-- Settles O37: no filter, no listed word, and M and K are 0. -/
theorem resetMeetsTheInvariant : Obligations.ResetMeetsTheInvariant := by
  have hpowerOn : ∀ cfg : Params, cfg.wellFormed = true → Inv (State.powerOn cfg) := fun _ hcfg =>
    .of_blank hcfg rfl ⟨rfl, rfl, rfl⟩ rfl
  exact ⟨hpowerOn _ (by decide), hpowerOn⟩

end Sys2Proof.Machine
end

section
/-! PROOFS. The memory family (20_memory.md): which accesses reach the register window, and that a host which polls sees its
command completed whatever the latency. -/

namespace Sys2Proof.Machine

/-! ## Accesses that are no slot's -/

theorem slotAt_of_misaligned {off : Nat} (h : off % 4 ≠ 0) : slotAt off = none := if_neg h

theorem Width.bytes_pos (width : Width) : 0 < width.bytes := by cases width <;> decide

/-- From an offset of the window, what is not an aligned 32-bit access is a violation (20_memory.md R48). -/
theorem busTarget_violation {base off : Nat} {width : Width} (hlt : off < 64) (h : ¬(width = .w32 ∧ off % 4 = 0)) :
    busTarget base (base + off) width = .violation := by
  have hpos := width.bytes_pos
  have hin : ¬(base + off + width.bytes ≤ base ∨ base + 64 ≤ base + off) := by omega
  rw [busTarget, if_neg hin]
  by_cases hw : width = .w32
  · have hmis : off % 4 ≠ 0 := fun hal => h ⟨hw, hal⟩
    simp [hw, slotAt_of_misaligned hmis]
  · simp [hw]

section Access
variable {s : State} {addr : Nat} {width : Width} {x : Input}
  (hx : x = .read addr width ∨ ∃ v, x = .write addr width v)
include hx

theorem hostInput_of_violation (h : busTarget s.cfg.base addr width = .violation) :
    hostInput s x = .fault .hostProtocolViolation := by
  rcases hx with rfl | ⟨v, rfl⟩
  · simp [hostInput, busRead, h]
  · simp [hostInput, busWrite, h]

theorem hostInput_of_outside (h : busTarget s.cfg.base addr width = .outside) : hostInput s x = .next s := by
  rcases hx with rfl | ⟨v, rfl⟩
  · simp [hostInput, busRead, h]
  · simp [hostInput, busWrite, h]

end Access

/-! ## Runs, and the turns of POLL -/

theorem coreRun_succ_of_step {M : Host.Core} {n : Nat} {s t : M.State} (h : M.step s = .next t) :
    M.run (n + 1) s = M.run n t := by
  rw [Host.Core.run, h]

theorem run_succ_of_step {n : Nat} {s t : State} (h : step s = .next t) :
    Sys2Proof.core.run (n + 1) s = Sys2Proof.core.run n t :=
  coreRun_succ_of_step (M := Sys2Proof.core) h

/-- While BUSY = 1 the loop reads STATUS and stays ahead (30_encoding.md R71). -/
theorem step_poll_busy {s : State} {rest : List Input} (he : engineTurn s = false) (hb : s.status.busy = true)
    (hi : s.inputs = .poll :: rest) :
    step s = .next { s with wait := s.wait - 1, seen := s.status.word :: s.seen } := by
  rw [step_host he, hostMove_cons hi, hostInput, pollOnce_eq, takeInput_status, if_pos hb, takeInput_inputs, ← hi]
  rfl

/-- With BUSY = 0 the loop reads STATUS and ends. -/
theorem step_poll_idle {s : State} {rest : List Input} (hb : s.status.busy = false) (hi : s.inputs = .poll :: rest) :
    step s = .next { s with inputs := rest, wait := s.wait - 1, seen := s.status.word :: s.seen } := by
  rw [step_host (engineTurn_idle hb), hostMove_cons hi, hostInput, pollOnce_eq, takeInput_status, hb]
  rfl

/-- A CMD write to an idle machine is accepted (70_reset_and_hazards.md R127). -/
theorem step_write_cmd_idle {s : State} {v : Word} {rest : List Input} (hb : s.status.busy = false)
    (hi : s.inputs = HostProgram.wr s.cfg.base .cmd v :: rest) :
    step s = .next (acceptCommand (takeInput s rest) v) := by
  rw [step_write_slot_word .cmd (engineTurn_idle hb) hi, writeSlot, submitCommand_idle (s := takeInput s rest) hb]

/-! ## A completion does not depend on the host's side -/

/-- The same BFE with another schedule and another host: the model's own fields replaced (log 4, log 8). -/
def State.withHost (s : State) (wait draws : Nat) (inputs : List Input) (seen : List Word) : State :=
  { s with wait := wait, draws := draws, inputs := inputs, seen := seen }

@[simp] theorem State.withHost_wait (s : State) (wait draws : Nat) (inputs : List Input) (seen : List Word) :
    (s.withHost wait draws inputs seen).wait = wait := rfl

/-- An accepted command is the word latched, with the operands of the time, next to a free latency (log 4). -/
theorem acceptCommand_takeInput (s : State) (v : Word) (inputs rest : List Input) :
    acceptCommand (takeInput s inputs) v =
      (latchCommand { s with inputs := rest } v s.wait).withHost (Config.freeLatency s.draws) (s.draws + 1) inputs s.seen :=
  rfl

/-- A branch at a time: two meanings with the same test, of which each branch answers as wanted. -/
theorem next_of_ite {c : Prop} [Decidable c] {x y x' y' : Host.Outcome State Fault Refusal} {t t' : State}
    (h : (if c then x else y) = .next t) (hx : x = .next t → x' = .next t') (hy : y = .next t → y' = .next t') :
    (if c then x' else y') = .next t' := by
  split_ifs at h ⊢
  · exact hx h
  · exact hy h

section WithHost
variable {s t : State} {wait draws : Nat} {inputs : List Input} {seen : List Word}

/-- No meaning tests or changes a field of the host's side, so each branch answers the same with another host. -/
theorem exec_withHost {i : Instr} (h : exec i s = .next t) :
    exec i (s.withHost wait draws inputs seen) = .next (t.withHost wait draws inputs seen) := by
  have hbranch : ∀ {a : State}, (.next a : Host.Outcome State Fault Refusal) = .next t →
      (.next (a.withHost wait draws inputs seen) : Host.Outcome State Fault Refusal) =
        .next (t.withHost wait draws inputs seen) := fun e => by rw [Host.Outcome.next.inj e]
  cases i with
  | config => exact next_of_ite h hbranch hbranch
  | insert ie => exact next_of_ite h hbranch fun e => next_of_ite e hbranch hbranch
  | query ie => exact next_of_ite h hbranch fun e => next_of_ite e hbranch hbranch
  | readw => exact next_of_ite h hbranch fun e => next_of_ite e hbranch hbranch

theorem engineMove_withHost (h : engineMove s = .next t) :
    engineMove (s.withHost wait draws inputs seen) = .next (t.withHost wait draws inputs seen) := by
  rcases engineMove_cases s with ⟨i, hd, e⟩ | ⟨why, hd, e⟩
  · have hd' : decode (s.withHost wait draws inputs seen).latch.raw = .command i := hd
    rw [engineMove, hd']
    exact exec_withHost (e ▸ h)
  · have hd' : decode (s.withHost wait draws inputs seen).latch.raw = .illegal why := hd
    obtain rfl := Host.Outcome.next.inj (h.symm.trans e)
    rw [engineMove, hd']
    rfl

end WithHost

/-- A host that polls a command in flight sees STATUS after its completion, by induction on the latency that is left. -/
theorem run_poll_completes {s u : State} {rest : List Input} (hb : s.status.busy = true)
    (hi : s.inputs = .poll :: rest) (hu : engineMove s = .next u) :
    ∃ n wait draws seen, Sys2Proof.core.run n s = .next (u.withHost wait draws rest (u.status.word :: seen)) := by
  induction hw : s.wait generalizing s u with
  | zero =>
    have he : engineTurn s = true := engineTurn_eq_true.2 ⟨hb, .inl hw⟩
    have hf := engineMove_frame hu
    refine ⟨2, u.wait - 1, u.draws, u.seen, ?_⟩
    rw [run_succ_of_step ((step_engine he).trans hu), run_succ_of_step (step_poll_idle hf.busy (hf.inputs.trans hi))]
    rfl
  | succ w ih =>
    have he : engineTurn s = false := by simp [engineTurn, hw, hi]
    obtain ⟨n, wait, draws, seen, hrun⟩ :=
      ih (s := s.withHost (s.wait - 1) s.draws s.inputs (s.status.word :: s.seen)) hb hi (engineMove_withHost hu)
        (by simp [hw])
    exact ⟨n + 1, wait, draws, seen, (run_succ_of_step (step_poll_busy he hb hi)).trans hrun⟩

/-! ## The obligations -/

/-- Settles O32: an aligned offset is a slot's, and every other access is a violation. -/
theorem wrongWidthOrAlignmentFaults : Obligations.WrongWidthOrAlignmentFaults := by
  intro s off width x rest he hlt hi hx
  refine ⟨fun ⟨hw, hal⟩ => ?_, fun hbad => ?_⟩
  · obtain ⟨sl, rfl⟩ := exists_slot_offset hlt hal
    subst hw
    rcases hx with rfl | ⟨v, rfl⟩
    · exact ⟨_, step_read_slot sl he hi⟩
    · exact ⟨_, step_write_slot sl he hi⟩
  · rw [step_host he, hostMove_cons hi]
    exact hostInput_of_violation hx (busTarget_violation hlt hbad)

/-- Settles O55: the CMD write is accepted, the poll runs its latency down, and the completion does not depend on the
host's side. -/
theorem commandWriteThenPollRunsTheCommand : Obligations.CommandWriteThenPollRunsTheCommand := by
  intro s v rest hb hi
  have haccept := step_write_cmd_idle hb hi
  rw [acceptCommand_takeInput s v _ rest] at haccept
  obtain ⟨u, hu⟩ := engineMove_next (latchCommand { s with inputs := rest } v s.wait)
  have hf := engineMove_frame hu
  have hinputs : u.inputs = rest := hf.inputs
  obtain ⟨n, wait, draws, seen, hrun⟩ := run_poll_completes rfl rfl (engineMove_withHost hu)
  refine ⟨n + 1, _, u, (run_succ_of_step haccept).trans hrun, hu, ?_, rfl, hf.busy, rfl⟩
  rw [← hinputs]
  rfl

/-- Settles O33: such an access has the target `outside`. -/
theorem accessOutsideTheWindowIsIgnored : Obligations.AccessOutsideTheWindowIsIgnored := by
  intro s addr width x rest he hi hx hout
  rw [step_host he, hostMove_cons hi]
  exact hostInput_of_outside hx (if_pos hout)

end Sys2Proof.Machine
end

section
/-! PROOFS. The encoding family (30_encoding.md): a command word is its four fields, so decoding, encoding and the match and mask
rows are compared field by field. -/

namespace Sys2Proof

/-! ## A word is its fields -/

/-- RSV1, IE, RSV0 and OP are all of a command word (30_encoding.md R63). -/
theorem eq_append_fields (raw : Word) :
    raw = fieldRsv1 raw ++ BitVec.ofBool (fieldIe raw) ++ fieldRsv0 raw ++ fieldOp raw := by
  have hbit : ∀ x : BitVec 1, BitVec.ofBool (x == 1#1) = x := by decide
  have hie : BitVec.ofBool (fieldIe raw) = raw.extractLsb' 8 1 := by
    rw [fieldIe, BitVec.getLsbD_eq_extractLsb', hbit]
  rw [hie, fieldRsv1, fieldRsv0, fieldOp, BitVec.extractLsb'_append_extractLsb'_eq_extractLsb' (rfl : 9 = 8 + 1),
    BitVec.extractLsb'_append_extractLsb'_eq_extractLsb' (rfl : 8 = 4 + 4),
    BitVec.extractLsb'_append_extractLsb'_eq_extractLsb' (rfl : 4 = 0 + 4)]
  exact BitVec.extractLsb'_eq_self.symm

theorem eq_iff_fields {v w : Word} :
    v = w ↔ fieldRsv0 v = fieldRsv0 w ∧ fieldRsv1 v = fieldRsv1 w ∧ fieldOp v = fieldOp w ∧ fieldIe v = fieldIe w := by
  refine ⟨fun h => by simp [h], fun ⟨h0, h1, hop, hie⟩ => ?_⟩
  rw [eq_append_fields v, eq_append_fields w, h0, h1, hop, hie]

theorem fields_encode (i : Instr) :
    fieldRsv0 (encode i) = 0#4 ∧ fieldRsv1 (encode i) = 0#23 ∧ fieldOp (encode i) = opOf i ∧
      fieldIe (encode i) = ieOf i := by
  cases i with
  | config | readw => decide
  | insert ie | query ie => cases ie <;> decide

theorem fields_and (v w : Word) :
    fieldRsv0 (v &&& w) = fieldRsv0 v &&& fieldRsv0 w ∧ fieldRsv1 (v &&& w) = fieldRsv1 v &&& fieldRsv1 w ∧
      fieldOp (v &&& w) = fieldOp v &&& fieldOp w ∧ fieldIe (v &&& w) = (fieldIe v && fieldIe w) :=
  ⟨BitVec.extractLsb'_and, BitVec.extractLsb'_and, BitVec.extractLsb'_and, BitVec.getLsbD_and⟩

/-! ## What decodes to a command -/

theorem eq_encode_iff {raw : Word} {i : Instr} :
    raw = encode i ↔ fieldRsv0 raw = 0#4 ∧ fieldRsv1 raw = 0#23 ∧ fieldOp raw = opOf i ∧ fieldIe raw = ieOf i := by
  obtain ⟨h0, h1, hop, hie⟩ := fields_encode i
  rw [eq_iff_fields, h0, h1, hop, hie]

theorem decode_encode (i : Instr) : decode (encode i) = .command i := by
  cases i with
  | config | readw => rfl
  | insert ie | query ie => cases ie <;> rfl

theorem decode_eq_command_iff {raw : Word} {i : Instr} : decode raw = .command i ↔ raw = encode i :=
  ⟨fun h => eq_encode_iff.2 (decode_command h), fun h => h ▸ decode_encode i⟩

/-! ## Match and mask rows -/

/-- The rows of CONFIG and READW, whose mask is all ones (30_encoding.md R68). -/
theorem decode_eq_command_iff_fullMask {raw : Word} {i : Instr} :
    decode raw = .command i ↔ raw &&& 0xFFFFFFFF#32 = encode i := by
  have hmask : raw &&& 0xFFFFFFFF#32 = raw := BitVec.and_allOnes
  rw [hmask, decode_eq_command_iff]

/-- The mask of INSERT and QUERY leaves out IE alone. -/
theorem and_ieMask_eq_encode_iff {raw : Word} {i : Instr} (hie : ieOf i = false) :
    raw &&& 0xFFFFFEFF#32 = encode i ↔ fieldRsv0 raw = 0#4 ∧ fieldRsv1 raw = 0#23 ∧ fieldOp raw = opOf i := by
  have hmask : fieldRsv0 0xFFFFFEFF#32 = BitVec.allOnes 4 ∧ fieldRsv1 0xFFFFFEFF#32 = BitVec.allOnes 23 ∧
      fieldOp 0xFFFFFEFF#32 = BitVec.allOnes 4 ∧ fieldIe 0xFFFFFEFF#32 = false := by decide
  obtain ⟨m0, m1, mop, mie⟩ := hmask
  obtain ⟨a0, a1, aop, aie⟩ := fields_and raw 0xFFFFFEFF#32
  rw [eq_encode_iff, a0, a1, aop, aie, m0, m1, mop, mie, hie, Bool.and_false, BitVec.and_allOnes,
    BitVec.and_allOnes, BitVec.and_allOnes]
  simp

/-- The rows of INSERT and QUERY: `c` is the command as a function of its IE. -/
theorem exists_decode_iff_ieMask {raw : Word} {c : Bool → Instr} (hie : ∀ ie, ieOf (c ie) = ie)
    (hop : ∀ ie, opOf (c ie) = opOf (c false)) :
    (∃ ie, decode raw = .command (c ie)) ↔ raw &&& 0xFFFFFEFF#32 = encode (c false) := by
  simp only [decode_eq_command_iff, eq_encode_iff, and_ieMask_eq_encode_iff (hie false), hie, hop]
  simp

/-! ## Reserved bits -/

theorem decode_reserved {raw : Word} (h : fieldRsv0 raw ≠ 0#4 ∨ fieldRsv1 raw ≠ 0#23) :
    decode raw = .illegal .reservedBitSet := if_pos h

/-- A field in which a bit is set is not 0. -/
theorem extractLsb'_ne_zero_of_getLsbD {raw : Word} {start len j : Nat} (hlo : start ≤ j) (hhi : j < start + len)
    (h : raw.getLsbD j = true) : raw.extractLsb' start len ≠ 0#len := by
  intro h0
  have hbit := congrArg (·.getLsbD (j - start)) h0
  simp [-BitVec.getLsbD_eq_getElem, Nat.add_sub_cancel' hlo, h, show j - start < len by omega] at hbit

/-! ## The obligations -/

/-- Settles O2: `decode_command` one way, `decode_encode` the other. -/
theorem decodesExactlyTheEncodedWord : Obligations.DecodesExactlyTheEncodedWord :=
  fun _ _ => decode_eq_command_iff

/-- Settles O3: a row is matched by the encodings of its command, and the decoder gives a word one command at most. -/
theorem matchAndMaskDecideTheCommand : Obligations.MatchAndMaskDecideTheCommand := by
  intro raw
  have hconfig : decode raw = .command .config ↔ raw &&& 0xFFFFFFFF#32 = 0x00000001#32 := decode_eq_command_iff_fullMask
  have hinsert : (∃ ie, decode raw = .command (.insert ie)) ↔ raw &&& 0xFFFFFEFF#32 = 0x00000002#32 :=
    exists_decode_iff_ieMask (fun _ => rfl) (fun _ => rfl)
  have hquery : (∃ ie, decode raw = .command (.query ie)) ↔ raw &&& 0xFFFFFEFF#32 = 0x00000003#32 :=
    exists_decode_iff_ieMask (fun _ => rfl) (fun _ => rfl)
  have hreadw : decode raw = .command .readw ↔ raw &&& 0xFFFFFFFF#32 = 0x00000004#32 := decode_eq_command_iff_fullMask
  refine ⟨hconfig, hinsert, hquery, hreadw, ?_⟩
  simp only [ne_eq, beq_eq_decide, ← hconfig, ← hinsert, ← hquery, ← hreadw]
  cases decode raw with
  | illegal why => simp
  | command i => cases i <;> simp

/-- Settles O4: the bit lies in RSV0 or in RSV1. -/
theorem reservedBitMakesIllegal : Obligations.ReservedBitMakesIllegal := by
  intro raw j hj hbit
  refine ⟨.reservedBitSet, decode_reserved ?_⟩
  rcases hj with ⟨hlo, hhi⟩ | ⟨hlo, hhi⟩
  · exact .inl (extractLsb'_ne_zero_of_getLsbD hlo (by omega) hbit)
  · exact .inr (extractLsb'_ne_zero_of_getLsbD hlo (by omega) hbit)

/-- Settles O1: the legal words are the encodings of their commands; the nine others are single words to decode. -/
theorem tableWordsDecode : Obligations.TableWordsDecode := by
  refine ⟨decode_encode .config, decode_encode (.insert false), decode_encode (.insert true),
    decode_encode (.query false), decode_encode (.query true), decode_encode .readw, ?_⟩
  decide

end Sys2Proof

namespace Sys2Proof.Machine

/-- Settles O54, by the turn of a poll in either case of BUSY. -/
theorem pollRepeatsWhileBusy : Obligations.PollRepeatsWhileBusy := by
  intro s rest he hi
  cases hb : s.status.busy with
  | false => exact step_poll_idle hb hi
  | true => rw [step_poll_busy he hb hi, if_pos rfl, ← hi]

end Sys2Proof.Machine
end

section
/-! PROOFS. The configuration family (40_configure.md): CONFIG by the validity of its operands, the new filter it leaves, and the
probe count as a rounded multiple of ln 2. -/

namespace Sys2Proof.Machine

/-! ## CONFIG by the validity of its operands -/

theorem exec_config_of_valid {s : State} (h : configValid s.latch.n s.latch.b s.cfg.capBits = true) :
    exec .config s = .next (complete (constructFilter s s.latch.n s.latch.b) 0x1#4 .ok false) := if_pos h

theorem exec_config_of_invalid {s : State} (h : ¬configValid s.latch.n s.latch.b s.cfg.capBits = true) :
    exec .config s = .next (raiseError s 0x1#4 .invalidConfiguration) := if_neg h

/-- A CONFIG with ERR = OK had valid operands and constructed their filter (40_configure.md R73). -/
theorem exec_config_ok {s t : State} (h : exec .config s = .next t) (hok : t.status.err = .ok) :
    configValid s.latch.n s.latch.b s.cfg.capBits = true ∧
      t = complete (constructFilter s s.latch.n s.latch.b) 0x1#4 .ok false := by
  by_cases hv : configValid s.latch.n s.latch.b s.cfg.capBits = true
  · exact ⟨hv, Host.Outcome.next.inj (h.symm.trans (exec_config_of_valid hv))⟩
  · obtain rfl := Host.Outcome.next.inj (h.symm.trans (exec_config_of_invalid hv))
    exact nomatch hok

/-! ## The new filter -/

/-- M_LO and M_HI hold the product (40_configure.md R72). -/
theorem constructFilter_mLo_toNat {s : State} {n b : Nat} (h : n * b < 2 ^ 64) :
    (constructFilter s n b).mLo.toNat = n * b % 2 ^ 32 := by
  rw [constructFilter_mLo, lowWord, BitVec.extractLsb'_toNat, BitVec.toNat_ofNat, Nat.mod_eq_of_lt h]
  rfl

theorem constructFilter_mHi_toNat {s : State} {n b : Nat} (h : n * b < 2 ^ 64) :
    (constructFilter s n b).mHi.toNat = n * b / 2 ^ 32 := by
  rw [constructFilter_mHi, highWord, BitVec.extractLsb'_toNat, BitVec.toNat_ofNat, Nat.mod_eq_of_lt h,
    Nat.shiftRight_eq_div_pow]
  omega

/-- A new filter has no bit of an old one below m (40_configure.md R77, R79). -/
theorem bitRead_constructFilter {s : State} {n b p : Nat} (h : p < n * b) :
    (constructFilter s n b).array.bitRead p = false := by
  rw [BitArray.bitRead, constructFilter_array, BitArray.readWord_zeroWords, if_pos (div_lt_wordsFor h)]
  exact BitVec.getLsbD_zero

/-- Probe 0 exists, as 1 <= k, and reads a 0 of the new filter (41_probe.md R82). -/
theorem not_covers_constructFilter {s : State} {n b capBits : Nat} (hv : configValid n b capBits = true) (h : Word64) :
    ¬covers (constructFilter s n b) h := by
  obtain ⟨hpos, h64, -⟩ := size_of_configValid hv
  have hk : 0 < (constructFilter s n b).probeCount := constructFilter_probeCount hv ▸ (ktab_bounds hv).1
  have hlt : probeIndex h (n * b) 0 < n * b := Nat.mod_lt _ hpos
  intro hcovers
  have hset := hcovers 0 hk
  rw [constructFilter_m h64, bitRead_constructFilter hlt] at hset
  exact nomatch hset

/-- With a filter, a QUERY of any hash answers whether the filter covers it (42_membership.md R93). -/
theorem answers_of_covers_iff {s : State} {h : Word64} {r : Bool} (hconf : s.status.configured = true)
    (hr : covers s h ↔ r = true) : Answers s h r := by
  rcases execQuery_cases false (withLatch s { s.latch with h := h }) with ⟨hnone, -⟩ | ⟨-, hie, -⟩ | ⟨-, -, e⟩
  · exact nomatch hconf.symm.trans hnone
  · exact nomatch hie
  · exact ⟨_, e, rfl, Bool.eq_iff_iff.2 ((all_latchedProbes_iff_covers _).trans hr)⟩

/-! ## The probe count -/

set_option maxRecDepth 20000 in
/-- No b ln 2 lies so near a half that nine decimals of ln 2 leave open how it rounds (40_configure.md R75, R76): every b gives
the same entry of the table with either bound. -/
theorem ktab_between : ∀ b, b < 256 → 1 ≤ b →
    ktab b * 10 ^ 10 ≤ b * 6931471803 + 5 * 10 ^ 9 ∧ b * 6931471808 + 5 * 10 ^ 9 < (ktab b + 1) * 10 ^ 10 := by
  decide

theorem floor_mul_log_two {b : Nat} (hpos : 1 ≤ b) (hle : b ≤ 255) :
    ⌊(b : ℝ) * Real.log 2 + 1 / 2⌋ = (ktab b : ℤ) := by
  obtain ⟨hlo, hhi⟩ := ktab_between b (by omega) hpos
  have hlo' : (ktab b : ℝ) * 10 ^ 10 ≤ b * 6931471803 + 5 * 10 ^ 9 := by exact_mod_cast hlo
  have hhi' : (b : ℝ) * 6931471808 + 5 * 10 ^ 9 < (ktab b + 1) * 10 ^ 10 := by exact_mod_cast hhi
  have hlog_lo : (b : ℝ) * 0.6931471803 ≤ b * Real.log 2 := by gcongr; exact Real.log_two_gt_d9.le
  have hlog_hi : (b : ℝ) * Real.log 2 ≤ b * 0.6931471808 := by gcongr; exact Real.log_two_lt_d9.le
  rw [Int.floor_eq_iff, Int.cast_natCast]
  constructor <;> linarith

/-! ## The obligations -/

/-- Settles O7: valid operands construct the filter, whose parts the laws give; the frame is that of the two updates. -/
theorem configConstructsTheFilter : Obligations.ConfigConstructsTheFilter := by
  intro s hn hn' hb hb' hcap
  have hv : configValid s.latch.n s.latch.b s.cfg.capBits = true := configValid_iff.2 ⟨hn, hn', hb, hb', hcap⟩
  obtain ⟨-, h64, -⟩ := size_of_configValid hv
  exact ⟨_, exec_config_of_valid hv, constructFilter_m (s := s) h64, constructFilter_mLo_toNat (s := s) h64,
    constructFilter_mHi_toNat (s := s) h64, constructFilter_probeCount (s := s) hv,
    BitArray.readWord_zeroWords s.array _, rfl, rfl⟩

/-- Settles O9: rounding is the floor of half more, and the fixed-point constant lies within the bounds of ln 2. -/
theorem probeCountIsTheRoundedProduct : Obligations.ProbeCountIsTheRoundedProduct := by
  intro b hpos hle
  have hfloor := floor_mul_log_two hpos hle
  have hk := (ktab_bounds_below b (by omega) hpos).1
  obtain ⟨hlo, hhi⟩ := ktab_between b (by omega) hpos
  refine ⟨?_, hfloor.symm, by omega⟩
  rw [round_eq, hfloor]
  omega

/-- Settles O52: with ERR = OK the state holds a new filter, which covers no hash. -/
theorem freshFilterAnswersNo : Obligations.FreshFilterAnswersNo := by
  intro s t hexec hok h
  obtain ⟨hv, rfl⟩ := exec_config_ok hexec hok
  exact answers_of_covers_iff rfl (iff_of_false (not_covers_constructFilter hv h) nofun)

/-- Settles O8: such operands are not valid, and what is raised writes STATUS only. -/
theorem invalidConfigKeepsTheFilter : Obligations.InvalidConfigKeepsTheFilter :=
  ⟨fun _ h => exec_config_of_invalid (mt configValid_iff.1 h), rfl⟩

end Sys2Proof.Machine
end

section
/-! PROOFS. The probe family (41_probe.md): the probe sequence and its incremental form, the beats of the lanes, and that the lanes
of a command act as its probes do one at a time. -/

namespace Sys2Proof.Machine

/-! ## The probe sequence -/

theorem hashUpper_lt (h : Word64) : hashUpper h < 2 ^ 32 := (highWord h).isLt

theorem hashLower_lt (h : Word64) : hashLower h < 2 ^ 32 := (lowWord h).isLt

theorem probeIndex_lt {m : Nat} (hm : 1 ≤ m) (h : Word64) (i : Nat) : probeIndex h m i < m := Nat.mod_lt _ hm

@[simp] theorem probeIndex_zero (h : Word64) (m : Nat) : probeIndex h m 0 = hashUpper h % m := by simp [probeIndex]

/-- The sum of R82 for i <= 176, the last probe of the largest k. -/
theorem hashUpper_add_mul_le (h : Word64) {i : Nat} (hi : i < 177) : hashUpper h + i * hashLower h ≤ 760209211215 := by
  have hupper := hashUpper_lt h
  have hlower := hashLower_lt h
  have hmul : i * hashLower h ≤ 176 * hashLower h := Nat.mul_le_mul_right _ (by omega)
  omega

/-! ### The incremental form -/

theorem probeIndex_succ_mod (h : Word64) (m i : Nat) :
    probeIndex h m (i + 1) = (probeIndex h m i + hashLower h % m) % m := by
  simp only [probeIndex, ← Nat.add_mod, Nat.succ_mul, Nat.add_assoc]

theorem probeIndex_add_lt {m : Nat} (hm : 1 ≤ m) (h : Word64) (i : Nat) :
    probeIndex h m i + hashLower h % m < 2 * m := by
  have hprobe := probeIndex_lt hm h i
  have hstep : hashLower h % m < m := Nat.mod_lt _ hm
  omega

/-- The sum is below 2 m, so one subtraction reduces it (41_probe.md R84). -/
theorem probeIndex_succ {m : Nat} (hm : 1 ≤ m) (h : Word64) (i : Nat) :
    probeIndex h m (i + 1) =
      if probeIndex h m i + hashLower h % m < m then probeIndex h m i + hashLower h % m
      else probeIndex h m i + hashLower h % m - m := by
  have hsum := probeIndex_add_lt hm h i
  rw [probeIndex_succ_mod]
  split_ifs with hlt
  · exact Nat.mod_eq_of_lt hlt
  · rw [Nat.mod_eq_sub_mod (by omega), Nat.mod_eq_of_lt (by omega)]

theorem probesFrom_probeIndex {m : Nat} (hm : 1 ≤ m) (h : Word64) (k i : Nat) :
    probesFrom m (hashLower h % m) k (probeIndex h m i) = (List.range' i k).map (probeIndex h m) := by
  induction k generalizing i with
  | zero => rfl
  | succ k ih => rw [probesFrom, ← probeIndex_succ hm, ih, List.range'_succ, List.map_cons]

theorem probesIncremental_eq_probes {m : Nat} (hm : 1 ≤ m) (h : Word64) (k : Nat) :
    probesIncremental h m k = probes h m k := by
  rw [probesIncremental, ← probeIndex_zero, probesFrom_probeIndex hm, probes, List.range_eq_range']

/-! ### When two probes are equal -/

theorem probeIndex_of_dvd_hashLower {h : Word64} {m : Nat} (hdvd : m ∣ hashLower h) (i : Nat) :
    probeIndex h m i = hashUpper h % m := by
  rw [probeIndex, Nat.add_mod, Nat.mod_eq_zero_of_dvd (hdvd.mul_left i), Nat.add_zero, Nat.mod_mod]

/-- A factor is cancelled by dividing the modulus by what the two share. -/
theorem mul_modEq_mul_right_iff {a b c m : Nat} (hm : 0 < m) :
    a * c ≡ b * c [MOD m] ↔ a ≡ b [MOD m / Nat.gcd m c] := by
  refine ⟨Nat.ModEq.cancel_right_div_gcd hm, fun h => (h.mul_right' c).of_dvd ?_⟩
  rw [Nat.div_mul_right_comm (Nat.gcd_dvd_left m c)]
  exact Nat.dvd_lcm_left m c

theorem probeIndex_eq_iff {m : Nat} (hm : 1 ≤ m) (h : Word64) (i j : Nat) :
    probeIndex h m i = probeIndex h m j ↔ i ≡ j [MOD m / Nat.gcd (hashLower h % m) m] := by
  rw [← Nat.gcd_rec, ← mul_modEq_mul_right_iff hm]
  exact ⟨Nat.ModEq.add_left_cancel' _, Nat.ModEq.add_left _⟩

/-! ## The beats of the lanes -/

/-- Beat t takes the probes from t * lanes on, as long as there are any (41_probe.md R87). -/
theorem getElem?_beatsOf {lanes fuel : Nat} {ps : List Nat} (hl : 1 ≤ lanes) (hf : ps.length ≤ fuel) (t : Nat) :
    (beatsOf lanes fuel ps)[t]? =
      if t * lanes < ps.length then some ((ps.drop (t * lanes)).take lanes) else none := by
  induction fuel generalizing ps t with
  | zero => simp [beatsOf, List.length_eq_zero_iff.1 (Nat.le_zero.1 hf)]
  | succ fuel ih =>
    cases ps with
    | nil => simp [beatsOf]
    | cons p ps =>
      cases t with
      | zero => simp [beatsOf]
      | succ t =>
        have hrest : ((p :: ps).drop lanes).length ≤ fuel := by
          simp only [List.length_drop, List.length_cons] at hf ⊢
          omega
        have hmore : t * lanes < (p :: ps).length - lanes ↔ (t + 1) * lanes < (p :: ps).length := by
          rw [Nat.succ_mul]
          omega
        rw [beatsOf, List.getElem?_cons_succ, ih hrest, List.length_drop, List.drop_drop, Nat.succ_mul,
          Nat.add_comm lanes]
        simp only [hmore, Nat.succ_mul]

theorem getElem?_beats {lanes : Nat} (hl : 1 ≤ lanes) (ps : List Nat) (t : Nat) :
    (beats lanes ps)[t]? = if t * lanes < ps.length then some ((ps.drop (t * lanes)).take lanes) else none :=
  getElem?_beatsOf hl le_rfl t

theorem length_beats {lanes : Nat} (hl : 1 ≤ lanes) (ps : List Nat) :
    (beats lanes ps).length = (ps.length + lanes - 1) / lanes := by
  refine eq_of_forall_ge_iff fun t => ?_
  have hnone : (beats lanes ps)[t]? = none ↔ ps.length ≤ t * lanes := by simp [getElem?_beats hl]
  rw [← List.getElem?_eq_none_iff, hnone, ← Nat.ceilDiv_eq_add_pred_div, ceilDiv_le_iff_le_mul hl, Nat.mul_comm]

/-- Lane j of beat t holds probe t * lanes + j (41_probe.md R87). -/
theorem exists_beat_of_lt {lanes t j : Nat} {ps : List Nat} (hj : j < lanes) (hlt : t * lanes + j < ps.length) :
    ∃ b, (beats lanes ps)[t]? = some b ∧ b.length ≤ lanes ∧ b[j]? = ps[t * lanes + j]? := by
  refine ⟨(ps.drop (t * lanes)).take lanes, ?_, List.length_take_le _ _, ?_⟩
  · rw [getElem?_beats (by omega), if_pos (by omega)]
  · rw [List.getElem?_take_of_lt hj, List.getElem?_drop]

theorem getElem?_probes {k i : Nat} (hi : i < k) (h : Word64) (m : Nat) :
    (probes h m k)[i]? = some (probeIndex h m i) := by
  simp [probes, hi]

/-! ## INSERT and QUERY on a machine with a filter -/

theorem readWord_bitSet (A : BitArray) (p w : Nat) : (A.bitSet p).readWord w = A.readWord w ||| setMask [p] w := by
  rw [BitArray.bitSet, BitArray.readWord_writeWord]
  by_cases hw : p / 64 = w
  · simp [setMask, hw]
  · simp [setMask, hw, Ne.symm hw]

/-- Setting one probe after the other gives each word OR SetMask, as the lanes do (41_probe.md R88). -/
theorem readWord_foldl_bitSet (A : BitArray) (ps : List Nat) (w : Nat) :
    (ps.foldl BitArray.bitSet A).readWord w = A.readWord w ||| setMask ps w := by
  induction ps generalizing A with
  | nil => simp [setMask]
  | cons p ps ih =>
    rw [List.foldl_cons, ih, readWord_bitSet, BitVec.or_assoc, ← setMask_append, List.singleton_append]

theorem setMask_probes_getLsbD_iff (h : Word64) (m k w : Nat) {q : Nat} (hq : q < 64) :
    (setMask (probes h m k) w).getLsbD q = true ↔ ∃ i, i < k ∧ probeIndex h m i = 64 * w + q := by
  rw [setMask_getLsbD _ _ _ hq, List.contains_iff_mem, mem_probes]

theorem exec_insert_of_configured {s : State} (h : s.status.configured = true) :
    exec (.insert false) s = .next
      (complete { s with array := setProbes (laneCount s.cfg) s.array (latchedProbes s) } 0x2#4 .ok false) := by
  rcases execInsert_cases false s with ⟨hnone, -⟩ | ⟨-, hie, -⟩ | ⟨-, -, e⟩
  · exact nomatch h.symm.trans hnone
  · exact nomatch hie
  · exact e

theorem exec_query_of_configured {s : State} (h : s.status.configured = true) :
    exec (.query false) s = .next (complete s 0x3#4 .ok ((latchedProbes s).all fun p => s.array.bitRead p)) := by
  rcases execQuery_cases false s with ⟨hnone, -⟩ | ⟨-, hie, -⟩ | ⟨-, -, e⟩
  · exact nomatch h.symm.trans hnone
  · exact nomatch hie
  · exact e

/-! ## The obligations -/

/-- Settles O49: the residue is below m, and each half of the hash is below 2^32. -/
theorem probesLieInTheUsedWords : Obligations.ProbesLieInTheUsedWords := by
  intro h m i hm
  exact ⟨probeIndex_lt hm h i, div_lt_wordsFor (probeIndex_lt hm h i),
    fun hi => ⟨hashUpper_add_mul_le h hi, by decide⟩⟩

/-- Settles O48: by induction on k along the recurrence of R84. -/
theorem incrementalProbesAgree : Obligations.IncrementalProbesAgree := by
  intro h m k hm
  exact ⟨probesIncremental_eq_probes hm h k, probeIndex_succ hm h, probeIndex_add_lt hm h, fun hlt => by omega⟩

/-- Settles O50: equal probes by cancelling h2 from the congruence modulo m. -/
theorem probeSequenceCornerCases : Obligations.ProbeSequenceCornerCases := by
  intro h m hm
  refine ⟨fun i => Nat.mod_one _, fun hs => probeIndex_of_dvd_hashLower (Nat.dvd_of_mod_eq_zero hs),
    probeIndex_eq_iff hm h, ?_, ?_⟩
  · rintro j rfl i q
    exact Nat.testBit_mod_two_pow _ _ _
  · rw [probes, List.range_one, List.map_singleton, probeIndex_zero]

/-- Settles O47: beat t takes the probes from t * lanes on, and the beats joined are the probes. -/
theorem beatsHoldTheProbesInOrder : Obligations.BeatsHoldTheProbesInOrder := by
  intro h m k lanes hl
  refine ⟨?_, fun t j hj hlt => ?_, flatten_beats lanes hl _⟩
  · rw [length_beats hl, length_probes]
  · rw [← getElem?_probes hlt]
    exact exists_beat_of_lt hj (by rwa [length_probes])

/-- Settles O45: the lanes and the single probes give each word OR SetMask, and no lane changes the answer of a QUERY. -/
theorem lanesActLikeSequentialProbes : Obligations.LanesActLikeSequentialProbes := by
  intro s lanes _ hconf _
  refine ⟨⟨_, exec_insert_of_configured hconf, fun w => ?_, fun w => ?_, fun w q => setMask_probes_getLsbD_iff _ _ _ w⟩,
    ⟨_, exec_query_of_configured hconf, all_latchedProbes_iff_covers s⟩⟩
  · exact (readWord_setProbes (one_le_laneCount _) _ _ w).trans (readWord_foldl_bitSet _ _ w).symm
  · exact readWord_setProbes (one_le_laneCount _) _ _ w

end Sys2Proof.Machine
end

section
/-! PROOFS. The membership family (42_membership.md): INSERT and QUERY on a filter, bits that only grow inside a lifetime, and
sequences of commands: their effect on the array, and what they show of it. -/

namespace Sys2Proof.Machine

/-! ## Setting bits -/

/-- A word that already has all bits of the mask does not change (42_membership.md R95). -/
theorem readWord_or_setMask_of_set {A : BitArray} {ps : List Nat} (h : ∀ p, p ∈ ps → A.bitRead p = true) (w : Nat) :
    A.readWord w ||| setMask ps w = A.readWord w := by
  apply BitVec.eq_of_getLsbD_eq
  intro q hq
  rw [BitVec.getLsbD_or, setMask_getLsbD _ _ _ hq, A.readWord_getLsbD w q hq, Bool.or_eq_left_iff_imp]
  exact fun hmem => h _ (List.contains_iff_mem.1 hmem)

/-- A mask does not depend on the order of the probes (41_probe.md R88). -/
theorem setMask_perm {ps qs : List Nat} (h : ps.Perm qs) (w : Nat) : setMask ps w = setMask qs w := by
  apply BitVec.eq_of_getLsbD_eq
  intro q hq
  rw [setMask_getLsbD _ _ _ hq, setMask_getLsbD _ _ _ hq, h.contains_eq]

/-! ## What a command does inside a filter lifetime -/

/-- `t` has the filter of `s`, with the bits `ps` set besides (42_membership.md R92, R96). -/
structure AddsBits (s : State) (ps : List Nat) (t : State) : Prop where
  mLo : t.mLo = s.mLo
  mHi : t.mHi = s.mHi
  k : t.k = s.k
  configured : t.status.configured = s.status.configured
  words : ∀ w, t.array.readWord w = s.array.readWord w ||| setMask ps w

section AddsBits
variable {s t : State} {ps : List Nat}

/-- Nothing is set where the array stays as it is. -/
theorem AddsBits.of_array (hlo : t.mLo = s.mLo) (hhi : t.mHi = s.mHi) (hk : t.k = s.k)
    (hconf : t.status.configured = s.status.configured) (harray : t.array = s.array) : AddsBits s [] t :=
  ⟨hlo, hhi, hk, hconf, fun w => by rw [harray]; exact BitVec.or_zero.symm⟩

theorem AddsBits.trans {u : State} {qs : List Nat} (h : AddsBits s ps t) (h' : AddsBits t qs u) :
    AddsBits s (ps ++ qs) u :=
  ⟨h'.mLo.trans h.mLo, h'.mHi.trans h.mHi, h'.k.trans h.k, h'.configured.trans h.configured, fun w => by
    rw [h'.words, h.words, setMask_append, BitVec.or_assoc]⟩

theorem AddsBits.m_eq (h : AddsBits s ps t) : t.m = s.m := by rw [State.m, h.mHi, h.mLo, State.m]

theorem AddsBits.probeCount_eq (h : AddsBits s ps t) : t.probeCount = s.probeCount := congrArg BitVec.toNat h.k

theorem AddsBits.bitRead (h : AddsBits s ps t) (p : Nat) : t.array.bitRead p = (s.array.bitRead p || ps.contains p) := by
  have h64 : p % 64 < 64 := Nat.mod_lt _ (by decide)
  rw [BitArray.bitRead, h.words, BitVec.getLsbD_or, setMask_getLsbD _ _ _ h64, Nat.div_add_mod]
  rfl

/-- A hash is covered once all its probes have been set, for whatever hash (42_membership.md R98). -/
theorem AddsBits.covers_of_subset {h : Word64} (ha : AddsBits s ps t) (hsub : probes h s.m s.probeCount ⊆ ps) :
    covers t h := by
  intro i hi
  rw [ha.probeCount_eq] at hi
  rw [ha.m_eq, ha.bitRead, List.contains_iff_mem.2 (hsub (mem_probes.2 ⟨i, hi, rfl⟩)), Bool.or_true]

/-- And stays covered (42_membership.md R96). -/
theorem AddsBits.keeps_covers {h : Word64} (ha : AddsBits s ps t) (hc : covers s h) : covers t h := by
  intro i hi
  rw [ha.probeCount_eq] at hi
  rw [ha.m_eq, ha.bitRead, hc i hi, Bool.true_or]

end AddsBits

/-- The machine after an INSERT that succeeds (42_membership.md R92). -/
def afterInsert (s : State) : State :=
  complete { s with array := setProbes (laneCount s.cfg) s.array (latchedProbes s) } 0x2#4 .ok false

theorem afterInsert_addsBits (s : State) : AddsBits s (latchedProbes s) (afterInsert s) :=
  ⟨rfl, rfl, rfl, rfl, readWord_setProbes (one_le_laneCount _) _ _⟩

theorem exec_insert_eq_afterInsert {s : State} (h : s.status.configured = true) :
    exec (.insert false) s = .next (afterInsert s) := exec_insert_of_configured h

/-- An INSERT whose bits are all set already changes no word (42_membership.md R95). -/
theorem readWord_afterInsert_of_set {s : State} (h : ∀ p, p ∈ latchedProbes s → s.array.bitRead p = true) (w : Nat) :
    (afterInsert s).array.readWord w = s.array.readWord w :=
  ((afterInsert_addsBits s).words w).trans (readWord_or_setMask_of_set h w)

/-- The bits a command sets: those an INSERT on a filter probes (42_membership.md R92). -/
def bitsSetBy (i : Instr) (s : State) : List Nat :=
  if i = .insert false ∧ s.status.configured = true then latchedProbes s else []

/-- Every command but a CONFIG that succeeds keeps the filter, and only an INSERT sets bits of it. -/
theorem exec_addsBits {i : Instr} {s t : State} (h : exec i s = .next t)
    (hi : i = .config → configValid s.latch.n s.latch.b s.cfg.capBits = false) : AddsBits s (bitsSetBy i s) t := by
  cases i with
  | config =>
    rw [exec_config_of_invalid (by simp [hi rfl])] at h
    obtain rfl := Host.Outcome.next.inj h
    exact .of_array rfl rfl rfl rfl rfl
  | insert ie =>
    rcases execInsert_cases ie s with ⟨hc, e⟩ | ⟨-, rfl, e⟩ | ⟨hc, rfl, e⟩ <;>
      obtain rfl := Host.Outcome.next.inj (h.symm.trans e)
    · rw [bitsSetBy, if_neg (by simp [hc])]
      exact .of_array rfl rfl rfl rfl rfl
    · exact .of_array rfl rfl rfl rfl rfl
    · rw [bitsSetBy, if_pos ⟨rfl, hc⟩]
      exact afterInsert_addsBits s
  | query ie =>
    rcases execQuery_cases ie s with ⟨-, e⟩ | ⟨-, -, e⟩ | ⟨-, -, e⟩ <;>
      obtain rfl := Host.Outcome.next.inj (h.symm.trans e) <;> exact .of_array rfl rfl rfl rfl rfl
  | readw =>
    rcases execReadw_cases s with ⟨-, e⟩ | ⟨-, -, e⟩ | ⟨-, -, e⟩ <;>
      obtain rfl := Host.Outcome.next.inj (h.symm.trans e) <;> exact .of_array rfl rfl rfl rfl rfl

/-- An INSERT with ERR = OK ran on a filter and carried no input error (60_exceptions.md R109). -/
theorem exec_insert_ok {ie : Bool} {s t : State} (h : exec (.insert ie) s = .next t) (hok : t.status.err = .ok) :
    t = afterInsert s := by
  rcases execInsert_cases ie s with ⟨-, e⟩ | ⟨-, -, e⟩ | ⟨-, -, e⟩ <;> obtain rfl := Host.Outcome.next.inj (h.symm.trans e)
  · exact nomatch hok
  · exact nomatch hok
  · rfl

theorem covers_afterInsert (s : State) : covers (afterInsert s) s.latch.h :=
  (afterInsert_addsBits s).covers_of_subset (List.Subset.refl _)

/-! ## Filter lifetimes -/

/-- In the engine's turn a step is the latched command (70_reset_and_hazards.md R129). -/
theorem step_of_decode {s : State} {i : Instr} (he : engineTurn s = true) (hd : decode s.latch.raw = .command i) :
    step s = exec i s := by
  rw [step_engine he, engineMove, hd]

theorem engineMove_addsBits {s t : State} (h : engineMove s = .next t)
    (hi : decode s.latch.raw = .command .config → configValid s.latch.n s.latch.b s.cfg.capBits = false) :
    ∃ ps, AddsBits s ps t := by
  rcases engineMove_cases s with ⟨i, hd, e⟩ | ⟨-, -, e⟩
  · exact ⟨_, exec_addsBits (e ▸ h) fun hconfig => hi (hconfig ▸ hd)⟩
  · obtain rfl := Host.Outcome.next.inj (h.symm.trans e)
    exact ⟨[], .of_array rfl rfl rfl rfl rfl⟩

/-- A step inside a lifetime keeps the filter and clears no bit of it (42_membership.md R96). -/
theorem lifetimeStep_addsBits {s t : State} (h : lifetimeStep s t) : ∃ ps, AddsBits s ps t := by
  obtain ⟨hstep, hnew⟩ := h
  rcases step_kinds hstep with ⟨he, -⟩ | ⟨he, rest, hi, -⟩ | ⟨-, -, hf⟩
  · refine engineMove_addsBits ((step_engine he).symm.trans hstep) fun hd => ?_
    simpa [startsLifetime, he, hd] using hnew
  · simp [startsLifetime, he, hi] at hnew
  · exact ⟨[], .of_array hf.mLo hf.mHi hf.k hf.configured hf.array⟩

/-- So does every run of steps inside a lifetime, by induction over the steps. -/
theorem sameLifetime_addsBits {s t : State} (h : sameLifetime s t) : ∃ ps, AddsBits s ps t := by
  induction h with
  | refl => exact ⟨[], .of_array rfl rfl rfl rfl rfl⟩
  | tail _ hstep ih =>
    obtain ⟨ps, hps⟩ := ih
    obtain ⟨qs, hqs⟩ := lifetimeStep_addsBits hstep
    exact ⟨ps ++ qs, hps.trans hqs⟩

/-- A QUERY answers 1 on a configured machine whose filter covers the hash, and only there (42_membership.md R93). -/
theorem answers_true_iff {s : State} {h : Word64} : Answers s h true ↔ s.status.configured = true ∧ covers s h := by
  refine ⟨fun ⟨t, ht, hok, hres⟩ => ?_, fun ⟨hconf, hc⟩ => answers_of_covers_iff hconf (iff_of_true hc rfl)⟩
  rcases execQuery_cases false (withLatch s { s.latch with h := h }) with ⟨-, e⟩ | ⟨-, hie, -⟩ | ⟨hconf, -, e⟩
  · obtain rfl := Host.Outcome.next.inj (ht.symm.trans e)
    exact nomatch hok
  · exact nomatch hie
  · obtain rfl := Host.Outcome.next.inj (ht.symm.trans e)
    exact ⟨hconf, (all_latchedProbes_iff_covers _).1 hres⟩

/-! ## Sequences of commands -/

theorem runCommands_cons_of_next {i : Instr} {l : Latch} {cs : List (Instr × Latch)} {s t : State}
    (h : exec i (withLatch s l) = .next t) : runCommands ((i, l) :: cs) s = runCommands cs t := by
  rw [runCommands, h]

/-- The bits that the INSERTs among some commands probe, in the filter of `s`. -/
def insertedProbes (s : State) (cs : List (Instr × Latch)) : List Nat :=
  (insertedHashes cs).flatMap fun h => probes h s.m s.probeCount

theorem insertedProbes_cons {s : State} (hconf : s.status.configured = true) (i : Instr) (l : Latch)
    (cs : List (Instr × Latch)) :
    insertedProbes s ((i, l) :: cs) = bitsSetBy i (withLatch s l) ++ insertedProbes s cs := by
  have hconf' : (withLatch s l).status.configured = true := hconf
  by_cases hi : i = .insert false
  · simp only [insertedProbes, insertedHashes, bitsSetBy, hi, hconf', List.filterMap_cons, if_true, and_self,
      List.flatMap_cons]
    rfl
  · simp [insertedProbes, insertedHashes, bitsSetBy, hi]

theorem insertedProbes_perm (s : State) {cs ds : List (Instr × Latch)}
    (h : (insertedHashes cs).Perm (insertedHashes ds)) : (insertedProbes s cs).Perm (insertedProbes s ds) :=
  h.flatMap_right _

theorem insertedProbes_congr {s t : State} {ps : List Nat} (h : AddsBits s ps t) (cs : List (Instr × Latch)) :
    insertedProbes t cs = insertedProbes s cs := by
  rw [insertedProbes, h.m_eq, h.probeCount_eq, insertedProbes]

/-- Commands without a CONFIG set exactly the bits that their INSERTs probe (42_membership.md R99). -/
theorem runCommands_addsBits {cs : List (Instr × Latch)} {s : State} (hconf : s.status.configured = true)
    (hcs : ∀ c, c ∈ cs → c.1 ≠ .config) : ∃ t, runCommands cs s = .next t ∧ AddsBits s (insertedProbes s cs) t := by
  induction cs generalizing s with
  | nil => exact ⟨s, rfl, .of_array rfl rfl rfl rfl rfl⟩
  | cons c cs ih =>
    obtain ⟨i, l⟩ := c
    obtain ⟨hi, hcs⟩ := List.forall_mem_cons.1 hcs
    obtain ⟨t, ht⟩ := exec_next i (withLatch s l)
    have ha : AddsBits s (bitsSetBy i (withLatch s l)) t :=
      { exec_addsBits ht fun hconfig => absurd hconfig hi with }
    obtain ⟨u, hu, hb⟩ := ih (ha.configured.trans hconf) hcs
    rw [runCommands_cons_of_next ht, insertedProbes_cons hconf, ← insertedProbes_congr ha]
    exact ⟨u, hu, ha.trans hb⟩

/-! ## Machines that look alike -/

section SameVisible
variable {s t : State}

theorem SameVisible.m_eq (h : SameVisible s t) : s.m = t.m := by rw [State.m, h.mHi, h.mLo, State.m]

theorem SameVisible.usedWords_eq (h : SameVisible s t) : s.usedWords = t.usedWords := congrArg wordsFor h.m_eq

theorem SameVisible.latchedProbes_eq (h : SameVisible s t) : latchedProbes s = latchedProbes t := by
  rw [latchedProbes, h.latch, h.m_eq, State.probeCount, h.k]
  rfl

/-- No register read tells the machines apart (10_state.md R20). -/
theorem SameVisible.readSlot_eq (h : SameVisible s t) : ∀ sl : Slot, readSlot s sl = readSlot t sl
  | .id | .cmd | .reserved38 | .reserved3C => rfl
  | .capacity => h.capWords
  | .status => congrArg Status.word h.status
  | .maxItems => h.maxItems
  | .bitsPerItem => h.bitsPerItem
  | .hashLo => h.hashLo
  | .hashHi => h.hashHi
  | .wordIndex => h.wordIndex
  | .dataLo => h.dataLo
  | .dataHi => h.dataHi
  | .mLo => h.mLo
  | .mHi => h.mHi
  | .k => h.k

/-- The machines agree on a probed bit, as it lies in a used word (20_memory.md R54). -/
theorem SameVisible.bitRead_probe (h : SameVisible s t) (hconf : s.status.configured = true) (hm : 1 ≤ s.m) {p : Nat}
    (hp : p ∈ latchedProbes s) : s.array.bitRead p = t.array.bitRead p :=
  BitArray.bitRead_congr (h.words hconf _ (div_lt_wordsFor (lt_of_mem_latchedProbes hm hp)))

/-! ### The updates that commands are made of keep the likeness -/

theorem SameVisible.withLatch_congr (h : SameVisible s t) (l : Latch) : SameVisible (withLatch s l) (withLatch t l) :=
  { h with latch := rfl, words := h.words }

theorem SameVisible.complete_congr (h : SameVisible s t) (op : BitVec 4) (err : ErrCode) (result : Bool) :
    SameVisible (complete s op err result) (complete t op err result) :=
  { h with status := congrArg (·.completed op err result) h.status, words := h.words }

theorem SameVisible.withArray_congr (h : SameVisible s t) {A B : BitArray}
    (hwords : s.status.configured = true → ∀ w, w < s.usedWords → A.readWord w = B.readWord w) :
    SameVisible { s with array := A } { t with array := B } :=
  { h with words := hwords }

theorem SameVisible.withData_congr (h : SameVisible s t) (lo hi : Word) :
    SameVisible { s with dataLo := lo, dataHi := hi } { t with dataLo := lo, dataHi := hi } :=
  { h with dataLo := rfl, dataHi := rfl, words := h.words }

/-- A new filter's used words are 0 whatever the array held (40_configure.md R77). -/
theorem SameVisible.constructFilter_congr (h : SameVisible s t) {n b : Nat} (hsize : n * b < 2 ^ 64) :
    SameVisible (constructFilter s n b) (constructFilter t n b) where
  capWords := h.capWords
  status := congrArg Status.constructed h.status
  maxItems := h.maxItems
  bitsPerItem := h.bitsPerItem
  hashLo := h.hashLo
  hashHi := h.hashHi
  wordIndex := h.wordIndex
  dataLo := h.dataLo
  dataHi := h.dataHi
  mLo := rfl
  mHi := rfl
  k := rfl
  latch := h.latch
  words := fun _ w hw => by
    rw [constructFilter_usedWords hsize] at hw
    rw [constructFilter_array, constructFilter_array, BitArray.readWord_zeroWords, BitArray.readWord_zeroWords,
      if_pos hw, if_pos hw]

/-! ### Commands -/

/-- Both meanings answer a next state, and the states look alike. -/
def BothAlike (x y : Host.Outcome State Fault Refusal) : Prop :=
  ∃ t t', x = .next t ∧ y = .next t' ∧ SameVisible t t'

theorem BothAlike.of_sameVisible (h : SameVisible s t) : BothAlike (.next s) (.next t) := ⟨s, t, rfl, rfl, h⟩

/-- A branch at a time: the machines take the same branch of a test on which they agree. -/
theorem BothAlike.ite {c c' : Prop} [Decidable c] [Decidable c'] {x x' y y' : Host.Outcome State Fault Refusal}
    (hc : c ↔ c') (hx : c → BothAlike x x') (hy : ¬c → BothAlike y y') :
    BothAlike (if c then x else y) (if c' then x' else y') := by
  by_cases h : c
  · rw [if_pos h, if_pos (hc.1 h)]
    exact hx h
  · rw [if_neg h, if_neg (mt hc.2 h)]
    exact hy h

theorem SameVisible.alike_raiseError (h : SameVisible s t) (op : BitVec 4) (err : ErrCode) :
    BothAlike (.next (raiseError s op err)) (.next (raiseError t op err)) :=
  .of_sameVisible (h.complete_congr op err false)

theorem SameVisible.notConfigured_iff (h : SameVisible s t) :
    (!s.status.configured) = true ↔ (!t.status.configured) = true := by rw [h.status]

theorem SameVisible.alike_execConfig (h : SameVisible s t) : BothAlike (execConfig s) (execConfig t) := by
  have hcap : s.cfg.capBits = t.cfg.capBits := by rw [Params.capBits, h.capWords, Params.capBits]
  refine .ite (by rw [h.latch, hcap]) (fun hv => ?_) fun _ => h.alike_raiseError _ _
  obtain ⟨-, h64, -⟩ := size_of_configValid hv
  rw [← h.latch]
  exact .of_sameVisible ((h.constructFilter_congr h64).complete_congr _ _ _)

/-- Each used word takes the same mask, whatever the lanes (41_probe.md R88). -/
theorem SameVisible.alike_execInsert (h : SameVisible s t) (ie : Bool) : BothAlike (execInsert ie s) (execInsert ie t) := by
  refine .ite h.notConfigured_iff (fun _ => h.alike_raiseError _ _) fun _ =>
    .ite Iff.rfl (fun _ => h.alike_raiseError _ _) fun _ =>
      .of_sameVisible (.complete_congr (h.withArray_congr fun hconf w hw => ?_) _ _ _)
  rw [readWord_setProbes (one_le_laneCount _), readWord_setProbes (one_le_laneCount _), h.words hconf w hw,
    h.latchedProbes_eq]

/-- A QUERY reads used words only, as each probe is below m (41_probe.md R82). -/
theorem SameVisible.alike_execQuery (h : SameVisible s t) (hm : s.status.configured = true → 1 ≤ s.m) (ie : Bool) :
    BothAlike (execQuery ie s) (execQuery ie t) := by
  refine .ite h.notConfigured_iff (fun _ => h.alike_raiseError _ _) fun hconf =>
    .ite Iff.rfl (fun _ => h.alike_raiseError _ _) fun _ => ?_
  have hconf : s.status.configured = true := by simpa using hconf
  have hanswer : testProbes (laneCount s.cfg) s.array (latchedProbes s) =
      testProbes (laneCount t.cfg) t.array (latchedProbes t) := by
    rw [testProbes_eq (one_le_laneCount _), testProbes_eq (one_le_laneCount _), ← h.latchedProbes_eq,
      Bool.eq_iff_iff, List.all_eq_true, List.all_eq_true]
    exact forall₂_congr fun p hp => by rw [h.bitRead_probe hconf (hm hconf) hp]
  rw [hanswer]
  exact .of_sameVisible (h.complete_congr _ _ _)

/-- A READW that succeeds reads a used word (43_readback.md R103). -/
theorem SameVisible.alike_execReadw (h : SameVisible s t) : BothAlike (execReadw s) (execReadw t) := by
  refine .ite h.notConfigured_iff (fun _ => h.alike_raiseError _ _) fun hconf =>
    .ite (by rw [h.usedWords_eq, h.latch]) (fun _ => h.alike_raiseError _ _) fun hw => ?_
  have hword : s.array.readWord s.latch.w = t.array.readWord t.latch.w := by
    rw [h.words (by simpa using hconf) _ (Nat.lt_of_not_le hw), h.latch]
  rw [hword]
  exact .of_sameVisible ((h.withData_congr _ _).complete_congr _ _ _)

theorem SameVisible.alike_exec (h : SameVisible s t) (hm : s.status.configured = true → 1 ≤ s.m) (i : Instr) :
    BothAlike (exec i s) (exec i t) := by
  cases i with
  | config => exact h.alike_execConfig
  | insert ie => exact h.alike_execInsert ie
  | query ie => exact h.alike_execQuery hm ie
  | readw => exact h.alike_execReadw

/-- Every filter has a bit (40_configure.md R74): a CONFIG gives it one, and no other command changes m. -/
theorem exec_keeps_m_pos {i : Instr} (h : exec i s = .next t) (hm : s.status.configured = true → 1 ≤ s.m) :
    t.status.configured = true → 1 ≤ t.m := by
  by_cases hv : i = .config ∧ configValid s.latch.n s.latch.b s.cfg.capBits = true
  · obtain ⟨rfl, hv⟩ := hv
    obtain rfl := Host.Outcome.next.inj ((exec_config_of_valid hv).symm.trans h)
    obtain ⟨hpos, h64, -⟩ := size_of_configValid hv
    exact fun _ => (constructFilter_m (s := s) h64).symm ▸ hpos
  · have ha := exec_addsBits h fun hi => by simpa using fun hvalid => hv ⟨hi, hvalid⟩
    rw [ha.configured, ha.m_eq]
    exact hm

/-- By induction over the commands, each of which keeps the likeness (42_membership.md R100). -/
theorem SameVisible.alike_runCommands {cs : List (Instr × Latch)} (h : SameVisible s t)
    (hm : s.status.configured = true → 1 ≤ s.m) : BothAlike (runCommands cs s) (runCommands cs t) := by
  induction cs generalizing s t with
  | nil => exact .of_sameVisible h
  | cons c cs ih =>
    obtain ⟨i, l⟩ := c
    obtain ⟨u, u', hu, hu', hlike⟩ := (h.withLatch_congr l).alike_exec hm i
    rw [runCommands_cons_of_next hu, runCommands_cons_of_next hu']
    exact ih hlike (exec_keeps_m_pos hu hm)

end SameVisible

/-! ## The obligations -/

/-- Settles O42: the INSERT covers the hash, no step of the lifetime uncovers it, and the QUERY's answer is whether it is
covered. -/
theorem noFalseNegatives : Obligations.NoFalseNegatives := by
  intro s t u v ie ie' hs hds hst hok hlife hu hdu hhash huv hok'
  obtain rfl := exec_insert_ok ((step_of_decode hs hds).symm.trans hst) hok
  obtain ⟨_, ha⟩ := sameLifetime_addsBits hlife
  have hcovers : covers u s.latch.h := ha.keeps_covers (covers_afterInsert s)
  have hc := engineMove_completion ((step_engine hu).symm.trans huv)
  exact hc.result_iff.2 ⟨⟨ie', hdu⟩, hok', hhash ▸ hcovers⟩

/-- Settles O46: likeness is kept along the commands, and machines that look alike read alike. -/
theorem enginesThatLookAlikeStayAlike : Obligations.EnginesThatLookAlikeStayAlike := by
  intro cs s s' h _ _ hm
  obtain ⟨t, t', ht, ht', hlike⟩ := h.alike_runCommands (cs := cs) hm
  exact ⟨t, t', ht, ht', hlike, List.map_congr_left fun sl _ => hlike.readSlot_eq sl⟩

/-- Settles O10: a word takes the mask of its probes, which is 0 where no probe lies. -/
theorem insertSetsExactlyTheProbedBits : Obligations.InsertSetsExactlyTheProbedBits := by
  intro s hconf _
  have ha := afterInsert_addsBits s
  refine ⟨_, exec_insert_eq_afterInsert hconf, fun p => ?_, fun w hw => ?_, setProbes_gen _ _ _, rfl⟩
  · rw [ha.bitRead, Bool.or_eq_true, List.contains_iff_mem, latchedProbes, mem_probes]
    simp only [eq_comm (a := p)]
    rfl
  · have hnone : w ∉ (latchedProbes s).map (· / 64) := by
      simp only [List.mem_map, latchedProbes, mem_probes]
      rintro ⟨_, ⟨i, hi, rfl⟩, hp⟩
      exact hw i hi hp
    rw [ha.words, setMask_eq_zero hnone]
    exact BitVec.or_zero

/-- Settles O11: the answer is whether the filter covers the latched hash. -/
theorem queryAnswersTheProbedBits : Obligations.QueryAnswersTheProbedBits := fun s hconf _ =>
  ⟨_, exec_query_of_configured hconf, all_latchedProbes_iff_covers s, rfl⟩

/-- Settles O40: bits that are set already change no word, and an INSERT sets all its bits. -/
theorem insertIsIdempotent : Obligations.InsertIsIdempotent := by
  intro s hconf _
  have hset : ∀ p, p ∈ latchedProbes s → (afterInsert s).array.bitRead p = true := fun p hp => by
    rw [(afterInsert_addsBits s).bitRead, List.contains_iff_mem.2 hp, Bool.or_true]
  exact ⟨⟨_, _, exec_insert_eq_afterInsert hconf, exec_insert_eq_afterInsert hconf, rfl, readWord_afterInsert_of_set hset⟩,
    fun h => ⟨_, exec_insert_eq_afterInsert hconf, readWord_afterInsert_of_set h⟩⟩

/-- Settles O41: a step of a lifetime only adds bits, so what is covered stays covered. -/
theorem bitsOnlyGrowInALifetime : Obligations.BitsOnlyGrowInALifetime := by
  refine ⟨fun s t hstep => ?_, fun s t h hyes hlife => ?_⟩
  · obtain ⟨ps, ha⟩ := lifetimeStep_addsBits hstep
    exact ⟨ha.mLo, ha.mHi, ha.k, ha.configured, fun p hp => by rw [ha.bitRead, hp, Bool.true_or]⟩
  · obtain ⟨hconf, hc⟩ := answers_true_iff.1 hyes
    obtain ⟨_, ha⟩ := sameLifetime_addsBits hlife
    exact answers_true_iff.2 ⟨ha.configured.trans hconf, ha.keeps_covers hc⟩

/-- Settles O44: both sequences set the bits their INSERTs probe, which are the same bits in another order. -/
theorem arrayIndependentOfInsertOrder : Obligations.ArrayIndependentOfInsertOrder := by
  intro s cs ds hconf hnone hperm
  obtain ⟨hcs, hds⟩ := List.forall_mem_append.1 hnone
  obtain ⟨t, ht, ha⟩ := runCommands_addsBits hconf hcs
  obtain ⟨u, hu, hb⟩ := runCommands_addsBits hconf hds
  refine ⟨t, u, ht, hu, fun w => ?_⟩
  rw [ha.words, hb.words, setMask_perm (insertedProbes_perm s hperm)]

/-- Settles O12: with a filter and IE = 1 both commands raise InvalidInput, which writes STATUS only. -/
theorem malformedInputIsLocal : Obligations.MalformedInputIsLocal := by
  refine ⟨fun s hconf => ⟨?_, ?_⟩, rfl⟩
  · rcases execInsert_cases true s with ⟨hnone, -⟩ | ⟨-, -, e⟩ | ⟨-, hie, -⟩
    · exact nomatch hconf.symm.trans hnone
    · exact e
    · exact nomatch hie
  · rcases execQuery_cases true s with ⟨hnone, -⟩ | ⟨-, -, e⟩ | ⟨-, hie, -⟩
    · exact nomatch hconf.symm.trans hnone
    · exact e
    · exact nomatch hie

/-- Settles O16: each outcome of a QUERY is a completion of the same state. -/
theorem queryWritesOnlyStatus : Obligations.QueryWritesOnlyStatus := by
  intro ie s
  rcases execQuery_cases ie s with ⟨-, e⟩ | ⟨-, -, e⟩ | ⟨-, -, e⟩ <;> exact ⟨_, e, rfl, rfl, rfl⟩

/-- Settles O43: both hashes have the one probe 5, the second as 0x45 = 64 + 5. -/
theorem falsePositivesExist : Obligations.FalsePositivesExist := by
  intro s hconf hm hk hzero hhash
  have hprobes : probes s.latch.h s.m s.probeCount = [5] := by
    rw [hhash, hm, State.probeCount, hk]
    decide
  have hother : probes 0x00000045DEADBEEF#64 s.m s.probeCount = [5] := by
    rw [hm, State.probeCount, hk]
    decide
  have ha : AddsBits s [5] (afterInsert s) := hprobes ▸ afterInsert_addsBits s
  refine ⟨_, exec_insert_eq_afterInsert hconf, ?_,
    answers_true_iff.2 ⟨hconf, ha.covers_of_subset fun _ hp => hother ▸ hp⟩⟩
  rw [ha.words, hzero]
  decide

end Sys2Proof.Machine
end

section
/-! PROOFS. The readback family (43_readback.md): READW by whether its word is used, and the two halves that DATA shows. -/

namespace Sys2Proof.Machine

/-! ## The halves of a word -/

theorem lowWord_toNat (v : Word64) : (lowWord v).toNat = v.toNat % 2 ^ 32 := BitVec.extractLsb'_toNat 0 32 v

theorem highWord_toNat (v : Word64) : (highWord v).toNat = v.toNat / 2 ^ 32 := by
  have := v.isLt
  rw [highWord, BitVec.extractLsb'_toNat, Nat.shiftRight_eq_div_pow]
  omega

/-! ## READW by its word, on a machine with a filter -/

theorem exec_readw_of_used {s : State} (hconf : s.status.configured = true) (hw : s.latch.w < s.usedWords) :
    exec .readw s = .next (complete { s with
      dataLo := lowWord (s.array.readWord s.latch.w)
      dataHi := highWord (s.array.readWord s.latch.w) } 0x4#4 .ok false) := by
  rcases execReadw_cases s with ⟨hnone, -⟩ | ⟨-, hunused, -⟩ | ⟨-, -, e⟩
  · exact nomatch hconf.symm.trans hnone
  · exact absurd hw hunused.not_gt
  · exact e

theorem exec_readw_of_unused {s : State} (hconf : s.status.configured = true) (hw : s.usedWords ≤ s.latch.w) :
    exec .readw s = .next (raiseError s 0x4#4 .indexRange) := by
  rcases execReadw_cases s with ⟨hnone, -⟩ | ⟨-, -, e⟩ | ⟨-, hused, -⟩
  · exact nomatch hconf.symm.trans hnone
  · exact e
  · exact absurd hused hw.not_gt

/-! ## The obligations -/

/-- Settles O14: DATA takes the halves of the word, and the frame is that of a completion. -/
theorem readwReturnsTheWord : Obligations.ReadwReturnsTheWord := fun _ hconf hw =>
  ⟨_, exec_readw_of_used hconf hw, lowWord_toNat _, highWord_toNat _, rfl⟩

/-- Settles O51: the word of a filter bit is used, and its halves joined are the word that holds the bit. -/
theorem readbackShowsEveryFilterBit : Obligations.ReadbackShowsEveryFilterBit := by
  intro s p hconf hp hword
  have hused : s.latch.w < s.usedWords := hword.trans_lt (div_lt_wordsFor hp)
  refine ⟨_, exec_readw_of_used hconf hused, rfl, ?_⟩
  calc (joinWords (highWord (s.array.readWord s.latch.w)) (lowWord (s.array.readWord s.latch.w))).getLsbD (p % 64)
    _ = (s.array.readWord s.latch.w).getLsbD (p % 64) := by rw [joinWords_split]
    _ = s.array.bitRead p := by rw [Latch.w, hword, BitArray.bitRead]

/-- Settles O15: an unused word raises IndexRange, which writes STATUS only. -/
theorem readwOutOfRangeKeepsData : Obligations.ReadwOutOfRangeKeepsData :=
  ⟨fun _ => exec_readw_of_unused, rfl⟩

/-- Settles O17: each failure is raised and writes STATUS only; the success is a completion with new DATA and ERR = OK. -/
theorem readwWritesOnlyStatusAndData : Obligations.ReadwWritesOnlyStatusAndData := by
  intro s
  rcases execReadw_cases s with ⟨-, e⟩ | ⟨-, -, e⟩ | ⟨-, -, e⟩
  · exact ⟨_, e, rfl, fun _ => ⟨rfl, rfl⟩, rfl, rfl⟩
  · exact ⟨_, e, rfl, fun _ => ⟨rfl, rfl⟩, rfl, rfl⟩
  · exact ⟨_, e, rfl, fun hfail => absurd rfl hfail, rfl, rfl⟩

end Sys2Proof.Machine
end

section
/-! PROOFS. The exception family (60_exceptions.md): which code a completion reports, that a failing one writes STATUS only, and
that a host inside the interface contract never stops the machine. -/

namespace Sys2Proof.Machine

/-! ## The code of a completion -/

/-- Without a filter every command but CONFIG raises NotConfigured, whatever its IE (60_exceptions.md R109). -/
theorem exec_of_not_configured {i : Instr} {s : State} (hi : i ≠ .config) (hconf : s.status.configured = false) :
    exec i s = .next (raiseError s (opOf i) .notConfigured) := by
  have hnone : (!s.status.configured) = true := by rw [hconf, Bool.not_false]
  cases i with
  | config => exact absurd rfl hi
  | insert ie => exact if_pos hnone
  | query ie => exact if_pos hnone
  | readw => exact if_pos hnone

/-- The code of a command is the first cause that applies, in the order of 60_exceptions.md R109. -/
theorem exec_err {i : Instr} {s t : State} (h : exec i s = .next t) :
    t.status.err =
      if i ≠ .config ∧ s.status.configured = false then .notConfigured
      else if i = .insert true ∨ i = .query true then .invalidInput
      else if i = .config ∧ configValid s.latch.n s.latch.b s.cfg.capBits = false then .invalidConfiguration
      else if i = .readw ∧ s.usedWords ≤ s.latch.w then .indexRange
      else .ok := by
  cases i with
  | config =>
    rcases execConfig_cases s with ⟨hv, e⟩ | ⟨hv, e⟩ <;> obtain rfl := Host.Outcome.next.inj (h.symm.trans e)
    · simp [hv]
    · simp [hv, raiseError]
  | insert ie =>
    rcases execInsert_cases ie s with ⟨hc, e⟩ | ⟨hc, rfl, e⟩ | ⟨hc, rfl, e⟩ <;>
      obtain rfl := Host.Outcome.next.inj (h.symm.trans e) <;> simp [hc, raiseError]
  | query ie =>
    rcases execQuery_cases ie s with ⟨hc, e⟩ | ⟨hc, rfl, e⟩ | ⟨hc, rfl, e⟩ <;>
      obtain rfl := Host.Outcome.next.inj (h.symm.trans e) <;> simp [hc, raiseError]
  | readw =>
    rcases execReadw_cases s with ⟨hc, e⟩ | ⟨hc, hw, e⟩ | ⟨hc, hw, e⟩ <;>
      obtain rfl := Host.Outcome.next.inj (h.symm.trans e)
    · simp [hc, raiseError]
    · simp [hc, hw, raiseError]
    · simp [hc, hw.not_ge]

/-- In the engine's turn an ILLEGAL word completes with IllegalCommand (60_exceptions.md R108). -/
theorem step_of_illegal {s : State} {why : Illegal} (he : engineTurn s = true) (hd : decode s.latch.raw = .illegal why) :
    step s = .next (completeIllegal s) := by
  rw [step_engine he, engineMove, hd]

/-- A completion that fails writes STATUS only, and there not CONFIGURED and not OVERRUN (60_exceptions.md R110). -/
theorem Completion.eq_of_failed {s t : State} (h : Completion s t) (herr : t.status.err ≠ .ok) :
    t = raiseError s t.status.lastop t.status.err := by
  cases h with
  | failed => rfl
  | config => exact absurd rfl herr
  | insert => exact absurd rfl herr
  | query => exact absurd rfl herr
  | readw => exact absurd rfl herr

/-! ## Hosts inside the interface contract -/

theorem writeSlot_inputs (s : State) (v : Word) (sl : Slot) : (writeSlot s v sl).inputs = s.inputs := by
  cases sl with
  | cmd => exact (apply_ite State.inputs _ _ _).trans (ite_self _)
  | _ => rfl

/-- Whether a host keeps to the contract is said of its inputs and the window's base. -/
theorem hostAllowed_congr {s t : State} (hcfg : t.cfg = s.cfg) (hinputs : t.inputs = s.inputs) :
    hostAllowed t = hostAllowed s := by
  rw [hostAllowed, hostAllowed, hcfg, hinputs]

theorem hostAllowed_of_inputs_cons {s : State} {x : Input} {rest : List Input} (hi : s.inputs = x :: rest) :
    hostAllowed s = true ↔ inputAllowed s.cfg.base x = true ∧ hostAllowed (takeInput s rest) = true := by
  rw [hostAllowed, hi, List.all_cons, Bool.and_eq_true, hostAllowed, takeInput_cfg, takeInput_inputs]

theorem hostInput_keeps_hostAllowed {s t : State} {x : Input} (h : hostInput s x = .next t) (hs : hostAllowed s = true) :
    hostAllowed t = true := by
  rcases hostInput_cases h with ⟨_, _, v, sl, -, -, rfl⟩ | ⟨_, _, _, -, -, rfl⟩ | ⟨_, _, sl, -, -, rfl⟩ |
    ⟨_, _, -, -, rfl⟩ | ⟨-, rfl⟩ | ⟨-, rfl⟩
  · exact (hostAllowed_congr (writeSlot_frame s _ sl).cfg (writeSlot_inputs s _ sl)).trans hs
  · exact hs
  · exact hs
  · exact hs
  · rw [pollOnce_eq]
    split_ifs
    · exact (hostAllowed_of_inputs_cons rfl).2 ⟨rfl, hs⟩
    · exact hs
  · exact hs

/-- An input answers a next state, or it is an access outside the contract and faults (20_memory.md R48). -/
theorem hostInput_next_or_violation (s : State) (x : Input) :
    (∃ t, hostInput s x = .next t) ∨
    (inputAllowed s.cfg.base x = false ∧ hostInput s x = .fault .hostProtocolViolation) := by
  cases x with
  | write addr width v =>
    rcases busWrite_cases s addr width v with ⟨_, -, e⟩ | ⟨-, e⟩ | ⟨hbad, e⟩
    · exact .inl ⟨_, e⟩
    · exact .inl ⟨_, e⟩
    · exact .inr ⟨by simp [inputAllowed, hbad], e⟩
  | read addr width =>
    rcases busRead_cases s addr width with ⟨_, -, e⟩ | ⟨-, e⟩ | ⟨hbad, e⟩
    · exact .inl ⟨_, e⟩
    · exact .inl ⟨_, e⟩
    · exact .inr ⟨by simp [inputAllowed, hbad], e⟩
  | poll => exact .inl ⟨_, rfl⟩
  | reset => exact .inl ⟨_, rfl⟩

/-- A step stops only at an access outside the contract (60_exceptions.md R112). -/
theorem step_next_or_violation (s : State) :
    (∃ t, step s = .next t) ∨ (hostAllowed s = false ∧ step s = .fault .hostProtocolViolation) := by
  rcases step_cases s with ⟨-, e⟩ | ⟨-, -, e⟩ | ⟨x, rest, -, hi, e⟩ <;> rw [e]
  · exact .inl (engineMove_next s)
  · exact .inl ⟨s, rfl⟩
  · rcases hostInput_next_or_violation (takeInput s rest) x with hnext | ⟨hbad, hfault⟩
    · exact .inl hnext
    · rw [takeInput_cfg] at hbad
      exact .inr ⟨by simp [hostAllowed, hi, hbad], hfault⟩

theorem step_keeps_hostAllowed {s t : State} (h : step s = .next t) (hs : hostAllowed s = true) :
    hostAllowed t = true := by
  rcases step_cases s with ⟨-, e⟩ | ⟨-, -, e⟩ | ⟨x, rest, -, hi, e⟩
  · have hf := engineMove_frame (e ▸ h)
    exact (hostAllowed_congr hf.cfg hf.inputs).trans hs
  · obtain rfl := Host.Outcome.next.inj (h.symm.trans e)
    exact hs
  · exact hostInput_keeps_hostAllowed (e ▸ h) ((hostAllowed_of_inputs_cons hi).1 hs).2

/-! ## The obligations -/

/-- Settles O18: by the cases of a completion, of which only a failure reports a code other than OK. -/
theorem failingCommandChangesOnlyStatus : Obligations.FailingCommandChangesOnlyStatus := by
  intro s t he hstep herr
  obtain ⟨u, hu, hc⟩ := step_completion he
  obtain rfl := Host.Outcome.next.inj (hstep.symm.trans hu)
  exact hc.eq_of_failed herr

/-- Settles O19: by the code of the latched command, or that of an ILLEGAL word. -/
theorem eachCommandReportsTheFirstCause : Obligations.EachCommandReportsTheFirstCause := by
  refine ⟨fun s he => ?_, fun s he hraw hconf => ?_⟩
  · cases hd : decode s.latch.raw with
    | command i =>
      obtain ⟨t, ht⟩ := exec_next i s
      exact ⟨t, (step_of_decode he hd).trans ht, exec_err ht⟩
    | illegal why => exact ⟨_, step_of_illegal he hd, rfl⟩
  · have hd : decode s.latch.raw = .command (.insert true) := hraw ▸ decode_encode (.insert true)
    exact ⟨_, (step_of_decode he hd).trans (exec_of_not_configured nofun hconf), rfl⟩

/-- Settles O57: a step stops only at an access outside the contract, and what remains of an allowed host's inputs is
allowed, a repeated poll among it. -/
theorem hostInContractNeverStops : Obligations.HostInContractNeverStops := by
  refine ⟨fun s hs => ?_, fun s => (step_next_or_violation s).imp_right And.right⟩
  rcases step_next_or_violation s with ⟨t, ht⟩ | ⟨hbad, -⟩
  · exact ⟨t, ht, step_keeps_hostAllowed ht hs⟩
  · exact nomatch hs.symm.trans hbad

/-- Settles O6: what an ILLEGAL word raises writes STATUS only. -/
theorem illegalWordCompletesWithIllegalCommand : Obligations.IllegalWordCompletesWithIllegalCommand :=
  ⟨fun _ _ => step_of_illegal, rfl⟩

/-- Settles O13: each of the three commands raises NotConfigured under its own OP. -/
theorem noFilterMeansNotConfigured : Obligations.NoFilterMeansNotConfigured :=
  ⟨fun _ hconf => ⟨fun _ => exec_of_not_configured nofun hconf, fun _ => exec_of_not_configured nofun hconf,
    exec_of_not_configured nofun hconf⟩, rfl⟩

/-- Settles O56: it is the host's turn, and the host has no move. -/
theorem idleMachineKeepsItsState : Obligations.IdleMachineKeepsItsState := fun _ hb hi =>
  (step_host (engineTurn_idle hb)).trans (hostMove_nil hi)

end Sys2Proof.Machine
end

section
/-! PROOFS. The reset and hazard family (70_reset_and_hazards.md): when the engine's turn comes, what acceptance, a dropped CMD
write and a reset do, and that the latency of a command in flight runs down to a state with BUSY = 0. -/

namespace Sys2Proof.Machine

/-! ## The two agents' turns -/

/-- With a command in flight the host moves only while both latency and inputs are left (log 4). -/
theorem engineTurn_eq_false {s : State} :
    engineTurn s = false ↔ s.status.busy = false ∨ (s.wait ≠ 0 ∧ s.inputs ≠ []) := by
  rw [← Bool.not_eq_true, engineTurn_eq_true, not_and_or, Bool.not_eq_true, not_or]

/-- In the host's turn a pending input takes effect. -/
theorem step_input {s : State} {x : Input} {rest : List Input} (he : engineTurn s = false) (hi : s.inputs = x :: rest) :
    step s = hostInput (takeInput s rest) x :=
  (step_host he).trans (hostMove_cons hi)

/-- A CMD write to a busy machine is dropped (70_reset_and_hazards.md R128). -/
theorem step_write_cmd_busy {s : State} {v : Word} {rest : List Input} (hb : s.status.busy = true)
    (he : engineTurn s = false) (hi : s.inputs = HostProgram.wr s.cfg.base .cmd v :: rest) :
    step s = .next (dropCommand (takeInput s rest)) := by
  rw [step_write_slot_word .cmd he hi, writeSlot, submitCommand_busy (s := takeInput s rest) hb]

/-- A reset in the host's turn, whether or not a command is in flight (70_reset_and_hazards.md R122, R124). -/
theorem step_reset {s : State} {rest : List Input} (he : engineTurn s = false) (hi : s.inputs = .reset :: rest) :
    step s = .next (resetMachine (takeInput s rest)) :=
  step_input he hi

/-! ## The register window after a reset -/

/-- STATUS reads 0 after a reset (10_state.md R24). -/
@[simp] theorem resetStatus_word : State.resetStatus.word = 0 := by decide

/-- The reset values of 10_state.md R20, the parameter CAP_WORDS among them. -/
theorem readSlots_powerOn (cfg : Params) :
    slotList.map (readSlot (State.powerOn cfg)) =
      [0x424C4D46#32, cfg.capWords, 0, 0, 0, 0, 0, 0, 0, 0, 0, 0, 0, 0, 0, 0] := by
  simp only [slotList, List.map, readSlot, State.powerOn, resetStatus_word, idWord]

/-- Every reset gives the registers the values they have after the first one. -/
theorem readSlot_resetMachine (s : State) : readSlot (resetMachine s) = readSlot (State.powerOn s.cfg) := by
  funext sl
  cases sl <;> rfl

/-! ## The latency runs down -/

theorem writeSlot_wait_of_busy {s : State} (hb : s.status.busy = true) (v : Word) (sl : Slot) :
    (writeSlot s v sl).wait = s.wait := by
  cases sl with
  | cmd => rw [writeSlot, submitCommand_busy hb, dropCommand_wait]
  | _ => rfl

@[simp] theorem pollOnce_wait (s : State) : (pollOnce s).wait = s.wait := by
  rw [pollOnce_eq]
  split <;> rfl

/-- While BUSY = 1 no input draws a new latency: a CMD write is dropped (70_reset_and_hazards.md R128). -/
theorem hostInput_wait_le {s t : State} {x : Input} (hb : s.status.busy = true) (h : hostInput s x = .next t) :
    t.wait ≤ s.wait := by
  rcases hostInput_cases h with ⟨_, _, v, sl, -, -, rfl⟩ | ⟨_, _, _, -, -, rfl⟩ | ⟨_, _, sl, -, -, rfl⟩ |
    ⟨_, _, -, -, rfl⟩ | ⟨-, rfl⟩ | ⟨-, rfl⟩
  · exact (writeSlot_wait_of_busy hb _ sl).le
  · exact le_rfl
  · exact (observe_wait s _).le
  · exact le_rfl
  · exact (pollOnce_wait s).le
  · exact Nat.zero_le _

/-- Each turn of the host uses up latency of the command in flight. -/
theorem step_wait_lt {s t : State} (hb : s.status.busy = true) (he : engineTurn s = false) (h : step s = .next t) :
    t.wait < s.wait := by
  rcases engineTurn_eq_false.1 he with hidle | ⟨hwait, hinputs⟩
  · exact nomatch hb.symm.trans hidle
  · obtain ⟨x, rest, hi⟩ := List.exists_cons_of_ne_nil hinputs
    have hle : t.wait ≤ s.wait - 1 := hostInput_wait_le (s := takeInput s rest) hb ((step_input he hi).symm.trans h)
    omega

/-! ## The obligations -/

/-- Settles O53: by induction on the latency that is left, which each turn of a host in contract uses up until the engine
completes the command; a reset among the turns ends it at once. -/
theorem acceptedCommandsComplete : Obligations.AcceptedCommandsComplete := by
  intro s hb hs
  induction hw : s.wait using Nat.strong_induction_on generalizing s with
  | _ w ih =>
    obtain ⟨t, ht, hallowed⟩ := hostInContractNeverStops.1 s hs
    have hdone : t.status.busy = false → ∃ n u, n ≤ w + 1 ∧ Sys2Proof.core.run n s = .next u ∧ u.status.busy = false :=
      fun htb => ⟨1, t, Nat.le_add_left 1 w, run_succ_of_step ht, htb⟩
    cases he : engineTurn s with
    | true => exact hdone (engineMove_frame ((step_engine he).symm.trans ht)).busy
    | false =>
      cases htb : t.status.busy with
      | false => exact hdone htb
      | true =>
        have hlt : t.wait < w := hw ▸ step_wait_lt hb he ht
        obtain ⟨n, u, hn, hrun, hu⟩ := ih t.wait hlt t htb hallowed rfl
        exact ⟨n + 1, u, by omega, (run_succ_of_step ht).trans hrun, hu⟩

/-- Settles O5: the two clauses are the engine's turn and the host's. -/
theorem stepRunsTheLatchedCommand : Obligations.StepRunsTheLatchedCommand := by
  refine ⟨fun s i hb hturn => step_of_decode (engineTurn_eq_true.2 ⟨hb, hturn⟩), fun s x rest hturn hi => ?_⟩
  have hinputs : s.inputs ≠ [] := by simp [hi]
  exact step_input (engineTurn_eq_false.2 (hturn.imp_right fun hwait => ⟨hwait, hinputs⟩)) hi

/-- Settles O27: the write is accepted, and acceptance latches the operands next to a free latency. -/
theorem acceptanceSamplesTheOperands : Obligations.AcceptanceSamplesTheOperands := fun _ _ _ hb hi =>
  ⟨_, step_write_cmd_idle hb hi, rfl⟩

/-- Settles O28: the write is dropped. -/
theorem busyDropsCommandWrites : Obligations.BusyDropsCommandWrites := fun _ _ _ => step_write_cmd_busy

/-- Settles O35: a reset input gives the registers the values of the machine's first reset. -/
theorem resetGivesEveryRegisterItsValue : Obligations.ResetGivesEveryRegisterItsValue := by
  refine ⟨fun cfg => ⟨readSlots_powerOn cfg, rfl⟩, fun s rest he hi => ⟨_, step_reset he hi, rfl, rfl, ?_⟩⟩
  rw [readSlot_resetMachine, readSlots_powerOn, takeInput_cfg]

/-- Settles O36: the state that `resetMachine` gives, whether or not BUSY was 1. -/
theorem resetAbandonsTheCommand : Obligations.ResetAbandonsTheCommand := fun _ _ _ => step_reset

end Sys2Proof.Machine
end
